-- ==== Sys2Proof/Word.lean ====
section
/-! DEFINITION. The word types of the block (spec/00_scope.md R6 to R8). -/

namespace Sys2Proof

/-- A CSR word, a command word, a file counter or a block index: `CSR_W` and `FILE_W` are 32 (R6). -/
abbrev Word := BitVec 32

/-- A sample byte, a storage status, a mode byte or a chip-select identity: 8 bits (R6, R17). -/
abbrev Byte := BitVec 8

/-- A capacity, a cursor or the occupancy counter: `CNT_W` is 16 (R6). -/
abbrev Count := BitVec 16

end Sys2Proof
end

