-- ==== Sys2Proof/Config.lean ====
section
/-! DEFINITION. What the implementation fixes (spec/00_scope.md R5, R6) and the free values of what the spec leaves open
(spec/93_implementation_defined.md). -/

namespace Sys2Proof

namespace Config

/-- The storage block size, fixed at 512 bytes (R5). -/
def block : Nat := 512

/-- The smallest ring capacity, 1024 bytes (R5). -/
def minCap : Nat := 1024

/-- The largest capacity the block uses, 127 * 512 (R6). -/
def maxCap : Nat := 65024

/-- A FREE VALUE, with no body: the byte that offset `off` of the ring buffer holds where the spec leaves its contents
unspecified (R30, R35, R43, R68; 93 rows 1, 2 and 4), at the draw numbered `draw`. DESIGN CHOICE, safe (log 4): nothing in
the model constrains it, and a new event reads at a new draw. -/
opaque freeByte (draw off : Nat) : Byte

end Config

/-- The two OPEN parameters of R6, and where the platform has other memory. They are data of the machine that no step writes
(log 7), so that a claim holds for every value of them. -/
structure Params where
  /-- `INTERNAL_BUF_BYTES`: the size of the block's own buffer RAM, 0 for none (R6, R77). -/
  internalBufBytes : Nat
  /-- `ADDR_W`: the width of an address on the BUFMEM port, at most 32 (R6; 93 row 11). -/
  addrW : Fin 33
  /-- The ranges of external addresses, each a first address and a size, that are memory of another use: "which external
  addresses a custom buffer may use are left to the platform" (R34). A custom buffer that overlaps one is the host's error, and
  the bytes sent from it are any value (R35; 93 row 4). DESIGN CHOICE, safe (log 6): any list, none by default. -/
  otherMemory : List (Nat × Nat) := []
deriving DecidableEq, Repr

/-- The defaults of R6: `INTERNAL_BUF_BYTES` = 1024 and `ADDR_W` = 32; no range of other memory (log 6). -/
def Params.default : Params := { internalBufBytes := 1024, addrW := 32 }

end Sys2Proof
end

