-- ==== Sys2Proof/Syntax.lean ====
section
/-! DEFINITION. The instructions of the block, one constructor for each row of spec/opcode_table.json (spec/00_scope.md R10),
and what arrives at its input ports before decoding (spec/10_state.md R15, spec/30_encoding.md R46). -/

namespace Sys2Proof

/-- The instructions. An operand is a field the encoding gives the instruction; ARG0 and ARG1 are state, not operands. -/
inductive Instr where
  -- commands: a full CSR write of offset 0x00 (R48)
  /-- INIT with its mode byte `IMM8` (R77). -/
  | init (mode : Byte)
  /-- DEINIT (R79). -/
  | deinit
  /-- SET_BUFFER (R80). -/
  | setBuffer
  /-- SET_CS with the identity `IMM8` (R81). -/
  | setCs (id : Byte)
  /-- SELECT_FILE (R75). -/
  | selectFile
  /-- PLAY (R73). -/
  | play
  /-- PAUSE (R74). -/
  | pause
  /-- STOP (R72). -/
  | stop
  /-- REFILL (R67). -/
  | refill
  /-- An illegal command word `w` (R50). -/
  | illegal (w : Word)
  -- CSR reads (R52)
  /-- Read CMD (R86). -/
  | rdCmd
  /-- Read ARG0 (R85). -/
  | rdArg0
  /-- Read ARG1 (R85). -/
  | rdArg1
  /-- Read STATUS (R82). -/
  | rdStatus
  /-- Read UNDERRUN, which clears it (R83). -/
  | rdUnderrun
  /-- Read LASTERR, which clears it (R84). -/
  | rdLasterr
  /-- Read MODE (R85). -/
  | rdMode
  /-- Read CAPACITY (R85). -/
  | rdCapacity
  /-- Read OCCUPIED (R85). -/
  | rdOccupied
  /-- Read RD_PTR (R85). -/
  | rdRdPtr
  /-- Read WR_PTR (R85). -/
  | rdWrPtr
  /-- Read START_BLOCK (R85). -/
  | rdStartBlock
  /-- Read TOTAL_BYTES (R85). -/
  | rdTotalBytes
  /-- Read BYTES_CONSUMED (R85). -/
  | rdBytesConsumed
  /-- Read BLOCK_INDEX (R85). -/
  | rdBlockIndex
  /-- Read CS_ID (R85). -/
  | rdCsId
  /-- Read CUSTOM_BASE (R85). -/
  | rdCustomBase
  /-- Read CUSTOM_LEN (R85). -/
  | rdCustomLen
  /-- Read an unmapped offset; `sel` is `OFF[7:2]` (R86). -/
  | rdUnmapped (sel : BitVec 6)
  -- CSR writes of other offsets (R52)
  /-- Write ARG0 (R87). -/
  | wrArg0 (d : Word)
  /-- Write ARG1 (R87). -/
  | wrArg1 (d : Word)
  /-- Write a read-only, read-to-clear or unmapped offset; `sel` is `OFF[7:2]` (R88). -/
  | wrIgnored (sel : BitVec 6) (d : Word)
  -- events (R53)
  /-- A pulse on the TICK port (R61). -/
  | tick
  /-- `StgInitResp(status)` (R78). -/
  | stgInitResp (status : Byte)
  /-- `StgLookupResp(status, start, length)` (R76). -/
  | stgLookupResp (status : Byte) (start length : Word)
  /-- `StgReadResp(status, data[0..511])` (R68). -/
  | stgReadResp (status : Byte) (data : Vector Byte 512)
deriving DecidableEq, Repr

/-- The four byte lanes of the CSR data bus (spec/20_memory.md R31). -/
structure Lanes where
  /-- Lane 0. -/
  lane0 : Byte
  /-- Lane 1. -/
  lane1 : Byte
  /-- Lane 2. -/
  lane2 : Byte
  /-- Lane 3. -/
  lane3 : Byte
deriving DecidableEq, Repr

/-- One access of the host on the CSR bus: an 8-bit byte offset, the four byte enables, and for a write the data lanes
(R32, R46). -/
inductive CsrAccess where
  | read (off : BitVec 8) (enables : BitVec 4)
  | write (off : BitVec 8) (enables : BitVec 4) (data : Lanes)
deriving DecidableEq, Repr

/-- One response of the storage collaborator (R15, R53). -/
inductive StgResp where
  | init (status : Byte)
  | lookup (status : Byte) (start length : Word)
  | read (status : Byte) (data : Vector Byte 512)
deriving DecidableEq, Repr

/-- One event at an input port; the port tells the formats of R46 apart. -/
inductive PortInput where
  | tick
  | stg (r : StgResp)
  | csr (a : CsrAccess)
deriving DecidableEq, Repr

end Sys2Proof
end

