-- ==== Sys2Proof/WellFormed.lean ====
section
/-! DEFINITION. The well-formed instructions: those that some input encodes (spec/30_encoding.md R48, R52). -/

namespace Sys2Proof

/-- "A command word is legal exactly when OP is in 0x01 .. 0x09, RSV = 0, and IMM8 = 0 unless OP is 0x01 or 0x04" (R48). -/
def legalCommandWord (w : Word) : Bool :=
  let op := w.extractLsb' 0 8
  let imm8 := w.extractLsb' 8 8
  let rsv := w.extractLsb' 16 16
  decide (1 ≤ op.toNat ∧ op.toNat ≤ 9) && decide (rsv = 0#16) && (decide (imm8 = 0#8) || decide (op = 0x01#8) || decide (op = 0x04#8))

/-- ILLEGAL holds a word that R48 does not call legal; RD_UNMAPPED an offset 0x48 .. 0xFC (R86); WR_IGNORED an offset
0x0C .. 0xFC (R88). Every other operand may take every value of its width. -/
def Instr.wf : Instr → Bool
  | .illegal w => !legalCommandWord w
  | .rdUnmapped sel => decide (0x12 ≤ sel.toNat)
  | .wrIgnored sel _ => decide (0x03 ≤ sel.toNat)
  | .init _ | .deinit | .setBuffer | .setCs _ | .selectFile | .play | .pause | .stop | .refill => true
  | .rdCmd | .rdArg0 | .rdArg1 | .rdStatus | .rdUnderrun | .rdLasterr | .rdMode | .rdCapacity | .rdOccupied => true
  | .rdRdPtr | .rdWrPtr | .rdStartBlock | .rdTotalBytes | .rdBytesConsumed | .rdBlockIndex | .rdCsId => true
  | .rdCustomBase | .rdCustomLen | .wrArg0 _ | .wrArg1 _ => true
  | .tick | .stgInitResp _ | .stgLookupResp _ _ _ | .stgReadResp _ _ => true

end Sys2Proof
end

