-- ==== Sys2Proof/Decode.lean ====
section
/-! DEFINITION. The decoder from what arrives at a port to an instruction (spec/30_encoding.md R46 to R53, spec/20_memory.md
R31 and R32), the encoder, and the numbering of spec/opcode_table.json. -/

namespace Sys2Proof

/-- "Byte lane k of a 32-bit word carries bits 8k+7 : 8k" (R31). -/
def Lanes.ofWord (w : Word) : Lanes :=
  { lane0 := w.extractLsb' 0 8, lane1 := w.extractLsb' 8 8, lane2 := w.extractLsb' 16 8, lane3 := w.extractLsb' 24 8 }

/-- The word the four lanes carry (R31). -/
def Lanes.toWord (l : Lanes) : Word := l.lane3 ++ l.lane2 ++ l.lane1 ++ l.lane0

/-- `OP` = bits 7:0 (R47). -/
def cmdOp (w : Word) : BitVec 8 := w.extractLsb' 0 8

/-- `IMM8` = bits 15:8 (R47). -/
def cmdImm8 (w : Word) : BitVec 8 := w.extractLsb' 8 8

/-- `RSV` = bits 31:16 (R47). -/
def cmdRsv (w : Word) : BitVec 16 := w.extractLsb' 16 16

/-- The command word of R47: `RSV` = 0 above `IMM8` above `OP`. -/
def cmdWord (imm8 op : BitVec 8) : Word := 0#16 ++ imm8 ++ op

/-- The commands whose `IMM8` must be 0 (R48); an `OP` that R48 does not list is illegal (R50). -/
def decodePlainCommand (w : Word) : Instr :=
  if cmdOp w = 0x02#8 then .deinit
  else if cmdOp w = 0x03#8 then .setBuffer
  else if cmdOp w = 0x05#8 then .selectFile
  else if cmdOp w = 0x06#8 then .play
  else if cmdOp w = 0x07#8 then .pause
  else if cmdOp w = 0x08#8 then .stop
  else if cmdOp w = 0x09#8 then .refill
  else .illegal w

/-- The command map (R48); every word it does not list is illegal (R50). -/
def decodeCommand (w : Word) : Instr :=
  if cmdRsv w = 0#16 then
    if cmdOp w = 0x01#8 then .init (cmdImm8 w)
    else if cmdOp w = 0x04#8 then .setCs (cmdImm8 w)
    else if cmdImm8 w = 0#8 then decodePlainCommand w
    else .illegal w
  else .illegal w

/-- The register a CSR offset selects: `OFF[7:2]`, bits 1:0 ignored (R32, R46). -/
def csrSelect (off : BitVec 8) : BitVec 6 := off.extractLsb' 2 6

/-- The byte offset of a register: bits 1:0 zero. -/
def csrOffset (sel : BitVec 6) : BitVec 8 := sel ++ 0#2

/-- A CSR read, by the register map of spec/10_state.md R22. -/
def decodeRead (off : BitVec 8) : Instr :=
  match (csrSelect off).toNat with
  | 0x00 => .rdCmd
  | 0x01 => .rdArg0
  | 0x02 => .rdArg1
  | 0x03 => .rdStatus
  | 0x04 => .rdUnderrun
  | 0x05 => .rdLasterr
  | 0x06 => .rdMode
  | 0x07 => .rdCapacity
  | 0x08 => .rdOccupied
  | 0x09 => .rdRdPtr
  | 0x0A => .rdWrPtr
  | 0x0B => .rdStartBlock
  | 0x0C => .rdTotalBytes
  | 0x0D => .rdBytesConsumed
  | 0x0E => .rdBlockIndex
  | 0x0F => .rdCsId
  | 0x10 => .rdCustomBase
  | 0x11 => .rdCustomLen
  | _ => .rdUnmapped (csrSelect off)

/-- A CSR write with all four byte enables: CMD, ARG0, ARG1, or an offset whose writes are ignored (R48, R52, R87, R88). -/
def decodeWrite (off : BitVec 8) (w : Word) : Instr :=
  match (csrSelect off).toNat with
  | 0x00 => decodeCommand w
  | 0x01 => .wrArg0 w
  | 0x02 => .wrArg1 w
  | _ => .wrIgnored (csrSelect off) w

/-- Why an input is no instruction. -/
inductive DecodeError where
  /-- A CSR write whose byte enables are not all four set: the block ignores it entirely (R32). -/
  | partialWrite
deriving DecidableEq, Repr

/-- The decoder, total on every input of every port (R46). The byte enables of a read are ignored (R32). -/
def decode : PortInput → Except DecodeError Instr
  | .tick => .ok .tick
  | .stg (.init status) => .ok (.stgInitResp status)
  | .stg (.lookup status start length) => .ok (.stgLookupResp status start length)
  | .stg (.read status data) => .ok (.stgReadResp status data)
  | .csr (.read off _) => .ok (decodeRead off)
  | .csr (.write off enables data) =>
    if enables = 0xF#4 then .ok (decodeWrite off data.toWord) else .error .partialWrite

/-- A full-width CSR write. -/
def fullWrite (sel : BitVec 6) (w : Word) : PortInput := .csr (.write (csrOffset sel) 0xF#4 (Lanes.ofWord w))

/-- A CSR read with all byte enables set. -/
def fullRead (sel : BitVec 6) : PortInput := .csr (.read (csrOffset sel) 0xF#4)

/-- The encoder (R46 to R53). What the block ignores (offset bits 1:0, a read's byte enables) is given as 0 and as all set
(log 12). -/
def encode : Instr → PortInput
  | .init mode => fullWrite 0x00 (cmdWord mode 0x01)
  | .deinit => fullWrite 0x00 (cmdWord 0 0x02)
  | .setBuffer => fullWrite 0x00 (cmdWord 0 0x03)
  | .setCs id => fullWrite 0x00 (cmdWord id 0x04)
  | .selectFile => fullWrite 0x00 (cmdWord 0 0x05)
  | .play => fullWrite 0x00 (cmdWord 0 0x06)
  | .pause => fullWrite 0x00 (cmdWord 0 0x07)
  | .stop => fullWrite 0x00 (cmdWord 0 0x08)
  | .refill => fullWrite 0x00 (cmdWord 0 0x09)
  | .illegal w => fullWrite 0x00 w
  | .rdCmd => fullRead 0x00
  | .rdArg0 => fullRead 0x01
  | .rdArg1 => fullRead 0x02
  | .rdStatus => fullRead 0x03
  | .rdUnderrun => fullRead 0x04
  | .rdLasterr => fullRead 0x05
  | .rdMode => fullRead 0x06
  | .rdCapacity => fullRead 0x07
  | .rdOccupied => fullRead 0x08
  | .rdRdPtr => fullRead 0x09
  | .rdWrPtr => fullRead 0x0A
  | .rdStartBlock => fullRead 0x0B
  | .rdTotalBytes => fullRead 0x0C
  | .rdBytesConsumed => fullRead 0x0D
  | .rdBlockIndex => fullRead 0x0E
  | .rdCsId => fullRead 0x0F
  | .rdCustomBase => fullRead 0x10
  | .rdCustomLen => fullRead 0x11
  | .rdUnmapped sel => fullRead sel
  | .wrArg0 d => fullWrite 0x01 d
  | .wrArg1 d => fullWrite 0x02 d
  | .wrIgnored sel d => fullWrite sel d
  | .tick => .tick
  | .stgInitResp status => .stg (.init status)
  | .stgLookupResp status start length => .stg (.lookup status start length)
  | .stgReadResp status data => .stg (.read status data)

/-- The 512 data bytes of a storage block numbered from bit 8 of `w` on, byte `k` at bits `8k+15 : 8k+8`. -/
def tableBlock (w : Nat) : Vector Byte 512 :=
  ⟨((List.range 512).map fun k => BitVec.ofNat 8 (w >>> (8 + 8 * k))).toArray, by simp⟩

/-- The input that `nbits` bits with value `w` stand for. The formats of R46 have one length each, and the length names the
format here (log 10): 32 bits a CMD word, 8 bits the offset of a CSR read, 40 bits a CSR write (offset, then data), no bits
a TICK, 72 bits a lookup response (status, start, length) and 4104 bits a read response (status, data). -/
def tableInput (nbits w : Nat) : Option PortInput :=
  match nbits with
  | 0 => some .tick
  | 8 => some (.csr (.read (BitVec.ofNat 8 w) 0xF#4))
  | 32 => some (fullWrite 0x00 (BitVec.ofNat 32 w))
  | 40 => some (.csr (.write (BitVec.ofNat 8 w) 0xF#4 (Lanes.ofWord (BitVec.ofNat 32 (w >>> 8)))))
  | 72 => some (.stg (.lookup (BitVec.ofNat 8 w) (BitVec.ofNat 32 (w >>> 8)) (BitVec.ofNat 32 (w >>> 40))))
  | 4104 => some (.stg (.read (BitVec.ofNat 8 w) (tableBlock w)))
  | _ => none

/-- The instruction the decoder reads from the bits `w` of a row of spec/opcode_table.json. -/
def decodeTableWord (nbits w : Nat) : Option Instr :=
  match tableInput nbits w with
  | none => none
  | some p =>
    match decode p with
    | .ok i => some i
    | .error _ => none

end Sys2Proof
end

