-- ==== Sys2Proof/Machine/State.lean ====
section
/-! DEFINITION. Everything the spec gives the machine, as plain data (spec/10_state.md R17), with what arrives at its ports and
what it has sent (R15), the reasons a step can stop, and the state after reset (spec/70_reset_and_hazards.md R104). -/

namespace Sys2Proof.Machine

/-- The kind of the outstanding storage request, `PEND_KIND` (R17): 0 NONE, 1 INIT, 2 LOOKUP, 3 READ. -/
inductive PendKind where
  | none
  | init
  | lookup
  | read
deriving DecidableEq, Repr

/-- The two output channels (R28, R65). -/
inductive Channel where
  | ch1
  | ch2
deriving DecidableEq, Repr

/-- One event the block sends on a port (R15). -/
inductive Output where
  /-- `DutyWrite(ch, v)` on the DUTY port (R65). -/
  | dutyWrite (ch : Channel) (v : Byte)
  /-- `StgInit(cs)` on the storage request port. -/
  | stgInit (cs : Byte)
  /-- `StgLookup(name)` on the storage request port. -/
  | stgLookup (name : Word)
  /-- `StgRead(blk, off)` on the storage request port. -/
  | stgRead (blk : Word) (off : Count)
  /-- The data lanes a CSR read returns. -/
  | csrData (d : Lanes)
deriving DecidableEq, Repr

/-- What the outside does next to the block. -/
inductive Arrival where
  /-- Reset is applied (R104, R105). -/
  | reset
  /-- Another agent reads the byte of external memory at `addr` (R97, R113; log 6). -/
  | foreignRead (addr : Word)
  /-- Another agent writes the byte of external memory at `addr` (R35, R43, R97; log 6). -/
  | foreignWrite (addr : Word)
  /-- One clock cycle in which at most one event of each agent reaches the block (R36). -/
  | cycle (tick : Bool) (resp : Option StgResp) (host : Option CsrAccess)
deriving DecidableEq, Repr

/-- A memory: address and byte pairs with strictly rising addresses. An address that is not listed holds no known byte. -/
abbrev Memory := List Host.Cell

/-- The complete state. The fields down to `arg1` are the elements of R17 in its order. -/
structure State where
  /-- `INIT_DONE`. -/
  initDone : Bool
  /-- `PLAYING`. -/
  playing : Bool
  /-- `STOPPED`. -/
  stopped : Bool
  /-- `UNDERRUN`, sticky. -/
  underrun : Bool
  /-- `HALF_RATE`. -/
  halfRate : Bool
  /-- `ALT`. -/
  alt : Bool
  /-- `STEREO`. -/
  stereo : Bool
  /-- `BRIDGE`. -/
  bridge : Bool
  /-- `TICK_EN`, also the level on the TICK_EN port (R66). -/
  tickEn : Bool
  /-- `BUSY`. -/
  busy : Bool
  /-- `PEND_KIND`. -/
  pendKind : PendKind
  /-- `PEND_MODE`. -/
  pendMode : Byte
  /-- `PEND_CAP`. -/
  pendCap : Count
  /-- `PEND_CUSTOM`. -/
  pendCustom : Bool
  /-- `PEND_BASE`, `ADDR_W` bits. -/
  pendBase : Word
  /-- `RESULT`. -/
  result : Bool
  /-- `LASTERR_CLASS`. -/
  errClass : BitVec 3
  /-- `LASTERR_CODE`. -/
  errCode : Byte
  /-- `C`, the ring capacity. -/
  cap : Count
  /-- `BUF_CUSTOM`. -/
  bufCustom : Bool
  /-- `BUF_BASE`, `ADDR_W` bits. -/
  bufBase : Word
  /-- `RD`. -/
  rd : Count
  /-- `WR`. -/
  wr : Count
  /-- `OCC`. -/
  occ : Count
  /-- `START_BLOCK`. -/
  startBlock : Word
  /-- `TOTAL`. -/
  total : Word
  /-- `CONSUMED`. -/
  consumed : Word
  /-- `BLK_IDX`. -/
  blkIdx : Word
  /-- `CS_ID`. -/
  csId : Byte
  /-- `CUSTOM_BASE`, `ADDR_W` bits. -/
  customBase : Word
  /-- `CUSTOM_LEN`. -/
  customLen : Count
  /-- `ARG0`. -/
  arg0 : Word
  /-- `ARG1`. -/
  arg1 : Word
  /-- The internal buffer RAM, keyed by offset: `BufMem` while `BUF_CUSTOM` = 0 (R29). -/
  ram : Memory
  /-- The external memory behind the BUFMEM port, keyed by address: it holds `BufMem` while `BUF_CUSTOM` = 1 (R29). -/
  ext : Memory
  /-- The model's own: another agent has read or written the custom buffer while the block owns it, so every byte later sent from
  it is any value (R43, R97; 93 row 4; log 6). -/
  bufForeign : Bool
  /-- The implementation's parameters, written by no step (R6; log 7). -/
  cfg : Params
  /-- The model's own: the number of the next draw of free values (log 4). -/
  draws : Nat
  /-- The model's own: what will reach the block, in order (log 1). The block queues nothing (R95). -/
  inputs : List Arrival
  /-- The model's own: every event the block has sent, oldest first (log 2). -/
  outs : List Output
deriving DecidableEq, Repr

/-- Why the machine stops. -/
inductive Fault where
  /-- Raised by a ring buffer access (TICK, STG_READ_RESP) while `C` = 0, where no offset of `BufMem` exists (R9: `0 ≤ off < C`).
  Safe: the model stops where the spec gives no meaning, and no reachable state meets it (log 8). -/
  | ringUnmapped
deriving DecidableEq, Repr

/-- Why an instruction has no meaning. -/
inductive Refusal where
  /-- Raised by `exec`'s arm of an instruction that has no meaning yet. Safe: the model stops. -/
  | notModelled (mnemonic : String)
deriving DecidableEq, Repr

/-- What a step or a meaning answers. -/
abbrev Result := Host.Outcome State Fault Refusal

/-- The state after reset (R17's reset column, R104): Uninitialized, STATUS 0x00000022, `BufMem` unspecified (nothing listed). -/
def State.reset : State where
  initDone := false
  playing := false
  stopped := true
  underrun := false
  halfRate := false
  alt := false
  stereo := false
  bridge := false
  tickEn := false
  busy := false
  pendKind := .none
  pendMode := 0
  pendCap := 0
  pendCustom := false
  pendBase := 0
  result := true
  errClass := 0
  errCode := 0
  cap := 0
  bufCustom := false
  bufBase := 0
  rd := 0
  wr := 0
  occ := 0
  startBlock := 0
  total := 0
  consumed := 0
  blkIdx := 0
  csId := 0
  customBase := 0
  customLen := 0
  arg0 := 0
  arg1 := 0
  ram := []
  ext := []
  bufForeign := false
  cfg := Params.default
  draws := 0
  inputs := []
  outs := []

end Sys2Proof.Machine
end

