-- ==== Sys2Proof/Machine/Ops.lean ====
section
/-! DEFINITION. The named operations every meaning is written with: memory, the ring buffer (spec/40_ring_buffer.md), the
pseudocode primitives of spec/00_scope.md R9, `Fail` (spec/60_exceptions.md R90) and its counterpart, the shared bodies
`DoStop` (R72) and `DoDeinit` (R79), and reset (R104). -/

namespace Sys2Proof.Machine

/-! ### Memory -/

/-- The byte listed at an address, none where the address is not listed. -/
def Memory.get? : Memory → Nat → Option Byte
  | [], _ => none
  | (k, b) :: m, a => if k = a then some b else Memory.get? m a

/-- Lists byte `b` at address `a`, keeping the addresses rising. -/
def Memory.set : Memory → Nat → Byte → Memory
  | [], a, b => [(a, b)]
  | (k, v) :: m, a, b =>
    if a < k then (a, b) :: (k, v) :: m
    else if a = k then (a, b) :: m
    else (k, v) :: Memory.set m a b

/-- Unlists every address that `p` holds of: its byte is no longer known. -/
def Memory.forget (m : Memory) (p : Nat → Bool) : Memory := m.filter fun c => !p c.1

/-- Lists the bytes of `data`, the byte numbered `k` at the address `key k`, in rising order of `k`. -/
def Memory.setAll (key : Nat → Nat) : Nat → List Byte → Memory → Memory
  | _, [], m => m
  | k, b :: bs, m => Memory.setAll key (k + 1) bs (Memory.set m (key k) b)

/-- The canonical form: addresses strictly rising. An unlisted address reads as no known byte, so no entry equals it. -/
abbrev Memory.wf (m : Memory) : Prop := List.Pairwise (fun x y => x.1 < y.1) m

/-! ### The ring buffer memory `BufMem` (R29) -/

/-- `2^ADDR_W`, the size of the external address space. -/
def State.extSize (s : State) : Nat := 2 ^ s.cfg.addrW.val

/-- Where offset `off` of `BufMem` lies in the active memory: at `off` in internal RAM, or at
`(BUF_BASE + off) mod 2^ADDR_W` in external memory (R29). -/
def State.bufKey (s : State) (off : Nat) : Nat :=
  if s.bufCustom then (s.bufBase.toNat + off) % s.extSize else off

/-- The active memory (R29). -/
def State.bufMem (s : State) : Memory := if s.bufCustom then s.ext else s.ram

/-- The state with the active memory replaced. -/
def State.setBufMem (s : State) (m : Memory) : State :=
  { s with ram := if s.bufCustom then s.ram else m, ext := if s.bufCustom then m else s.ext }

/-- The custom buffer's region wraps past `2^ADDR_W`, "the host's error" (R35; 93 row 4). -/
def State.bufWraps (s : State) : Bool :=
  s.bufCustom && decide (s.extSize < s.bufBase.toNat + s.cap.toNat)

/-- The custom buffer's region overlaps other memory, "the host's error" (R35; 93 row 4). Which ranges those are is the
platform's, a parameter here: DESIGN CHOICE, safe (log 6). -/
def State.bufOverlaps (s : State) : Bool :=
  s.bufCustom && s.cfg.otherMemory.any fun r =>
    decide (r.1 < s.bufBase.toNat + s.cap.toNat ∧ s.bufBase.toNat < r.1 + r.2)

/-- The bytes sent from the active buffer are any value: it is a custom buffer that another agent has accessed while the
block owns it (R43, R97), that wraps, or that overlaps other memory (R35; 93 row 4). R43's "the bytes the consumer later sends" has no end
in the spec: that it lasts for every byte of the buffer until a reset or a completed INIT is the model's DESIGN CHOICE, safe
(log 6). -/
def State.bufUnreliable (s : State) : Bool := s.bufCustom && (s.bufForeign || s.bufWraps || s.bufOverlaps)

/-- `MemRead(off, 1)` (R9). A byte that is not known (R30), and every byte of an unreliable custom buffer (R35, R43), is a free
value (log 4, log 6). -/
def State.memRead (s : State) (off : Nat) : Byte :=
  if s.bufUnreliable then Config.freeByte s.draws off
  else (Memory.get? s.bufMem (s.bufKey off)).getD (Config.freeByte s.draws off)

/-- Offset `(base + i) mod C`, the cursor arithmetic of R8. -/
def State.ringOff (s : State) (base : Count) (i : Nat) : Nat := (base.toNat + i) % s.cap.toNat

/-- `MemWrite((base + k) mod C, 1, data[k])` for `k = 0, 1, …` (R68). -/
def State.writeRegion (s : State) (base : Count) (data : List Byte) : State :=
  s.setBufMem (Memory.setAll (fun k => s.bufKey (s.ringOff base k)) 0 data s.bufMem)

/-- The address `a` of the active memory holds one of the `n` bytes from cursor `base` on. -/
def State.inRegion (s : State) (base : Count) (n : Nat) (a : Nat) : Bool :=
  (List.range n).any fun k => s.bufKey (s.ringOff base k) == a

/-- The `n` bytes from cursor `base` on become unspecified (R30, R68; log 5). -/
def State.forgetRegion (s : State) (base : Count) (n : Nat) : State :=
  s.setBufMem (Memory.forget s.bufMem (s.inRegion base n))

/-! ### Outputs and completion (R9) -/

/-- Sends events, in order (`emit`, R9). -/
def State.emitAll (s : State) (os : List Output) : State := { s with outs := s.outs ++ os }

/-- `emit` of one event (R9). -/
def State.emit (s : State) (o : Output) : State := s.emitAll [o]

/-- The answer of a CSR read: the 32-bit word on the byte lanes (R31, R32). -/
def State.answer (s : State) (v : Word) : State := s.emit (.csrData (Lanes.ofWord v))

/-- `succeed`: `RESULT <- 1` (R9). -/
def State.succeed (s : State) : State := { s with result := true }

/-- `Fail(class, code)`, the block's only exception (R90, R93): it writes LASTERR and `RESULT` and saves nothing else. -/
def State.fail (s : State) (cls : BitVec 3) (code : Byte) : State :=
  { s with errClass := cls, errCode := code, result := false }

/-- The counterpart of a trap return (R94): LASTERR is cleared by being read (R84). -/
def State.clearLasterr (s : State) : State := { s with errClass := 0, errCode := 0 }

/-- The LASTERR word `{21'b0, LASTERR_CLASS, LASTERR_CODE}` (R25). -/
def State.lasterrWord (s : State) : Word := 0#21 ++ s.errClass ++ s.errCode

/-- The block's own error codes, all of class 1 (R91). -/
def errBufAbsent : Byte := 0x01
/-- ERR_BUF_SMALL (R91). -/
def errBufSmall : Byte := 0x02
/-- ERR_NOT_INIT (R91). -/
def errNotInit : Byte := 0x03
/-- ERR_NO_FILE (R91). -/
def errNoFile : Byte := 0x04
/-- ERR_BAD_MODE (R91). -/
def errBadMode : Byte := 0x05
/-- ERR_BAD_CMD (R91). -/
def errBadCmd : Byte := 0x06

/-- `require BUSY = 0`: a CMD write while `BUSY` = 1 is ignored completely (R51). -/
def State.whenIdle (s : State) (r : Result) : Result := if s.busy then .next s else r

/-- `require PEND_KIND = k`: a response of another kind is ignored (R96). -/
def State.whenPending (s : State) (k : PendKind) (r : Result) : Result := if s.pendKind = k then r else .next s

/-- A storage request goes out: `BUSY <- 1; PEND_KIND <- k`. -/
def State.pend (s : State) (k : PendKind) : State := { s with busy := true, pendKind := k }

/-- The request is answered: `BUSY <- 0; PEND_KIND <- 0`. -/
def State.unpend (s : State) : State := { s with busy := false, pendKind := .none }

/-! ### The ring buffer's operations (R56 to R59) -/

/-- What `tryPeekConsume` returns. -/
inductive Peek where
  /-- Insufficient data: NONE (R56). -/
  | insufficient
  /-- `C` = 0: no byte exists to read (log 8). -/
  | unmapped
  /-- The bytes, oldest first, and the state with `RD` and `OCC` moved on. -/
  | taken (b : List Byte) (s : State)

/-- The `n` oldest bytes `BufMem[(RD + i) mod C]` (R55, R56). -/
def State.peekBytes (s : State) (n : Nat) : List Byte :=
  (List.range n).map fun i => s.memRead (s.ringOff s.rd i)

/-- `tryPeekConsume(n)` (R56). -/
def State.tryPeekConsume (s : State) (n : Nat) : Peek :=
  if s.occ.toNat < n then .insufficient
  else if s.cap = 0#16 then .unmapped
  else .taken (s.peekBytes n)
    { s with rd := BitVec.ofNat 16 (s.ringOff s.rd n), occ := s.occ - BitVec.ofNat 16 n }

/-- `reserveProduce(n)` (R57): the cursor where the reserved region starts, or none. -/
def State.reserveProduce (s : State) (n : Nat) : Option Count :=
  if (s.cap - s.occ).toNat < n then none else some s.wr

/-- `commitProduce(m)` (R58). -/
def State.commitProduce (s : State) (m : Nat) : State :=
  { s with wr := BitVec.ofNat 16 (s.ringOff s.wr m), occ := s.occ + BitVec.ofNat 16 m }

/-- `ringReset()` (R59). -/
def State.ringReset (s : State) : State := { s with rd := 0, wr := 0, occ := 0 }

/-! ### Shared bodies -/

/-- `DoStop()` (R72). -/
def State.doStop (s : State) : State :=
  { s.ringReset with consumed := 0, blkIdx := s.startBlock, playing := false, stopped := true }

/-- `DoDeinit()` (R79). -/
def State.doDeinit (s : State) : State :=
  { s.doStop with
    initDone := false, tickEn := false
    total := 0, startBlock := 0, consumed := 0, blkIdx := 0
    cap := 0, bufCustom := false, bufBase := 0
    halfRate := false, stereo := false, bridge := false, alt := false }

/-- Reset is applied (R104, R105): every element of R17 takes its reset value and the contents of internal RAM become
unspecified. The parameters, the external memory (another agent's), the inputs still to come, what was sent and the draw
counter are not the block's (log 9). -/
def State.applyReset (s : State) : State :=
  { State.reset with cfg := s.cfg, ext := s.ext, draws := s.draws, inputs := s.inputs, outs := s.outs }

/-- The external address `a` holds one of "the `C` bytes at `BUF_BASE`", which belong to the block "while `INIT_DONE` = 1 and
`BUF_CUSTOM` = 1" (R43). -/
def State.ownsExternal (s : State) (a : Nat) : Bool := s.initDone && s.bufCustom && s.inRegion 0 s.cap.toNat a

/-- Another agent has accessed the external byte at `addr mod 2^ADDR_W`, by a read or a write. If the block owns it, "output becomes
unspecified" (R97, D27): no byte later sent from the buffer is known. R43 and 93 row 4 say so of a write only; that a read does it
too is the model's DESIGN CHOICE for R97's "access", safe (log 6). -/
def State.foreignAccess (s : State) (addr : Word) : State :=
  { s with bufForeign := s.bufForeign || s.ownsExternal (addr.toNat % s.extSize) }

/-- Another agent has written the external byte at `addr mod 2^ADDR_W`: an access, after which what the byte holds is no longer
known (R43; 93 row 4; log 6). -/
def State.foreignWrite (s : State) (addr : Word) : State :=
  { s.foreignAccess addr with ext := Memory.forget s.ext fun a => a == addr.toNat % s.extSize }

/-- One event is taken from the inputs, and free values are drawn anew (log 1, log 4). -/
def State.taking (s : State) (rest : List Arrival) : State := { s with inputs := rest, draws := s.draws + 1 }

end Sys2Proof.Machine
end

