-- ==== Sys2Proof/Machine/Flags.lean ====
section
/-! DEFINITION. The flag computations: the derived playback state (spec/10_state.md R19), the derived STATUS bits (R23), and
the tick's use of the PlaybackFlags (spec/41_consumer.md R61 to R63). -/

namespace Sys2Proof.Machine

/-- The playback states (R19). -/
inductive PlayState where
  | uninitialized
  | stopped
  | playing
  | paused
deriving DecidableEq, Repr

/-- The playback state, derived from the flags (R19). -/
def State.playState (s : State) : PlayState :=
  if !s.initDone then .uninitialized
  else if s.stopped then .stopped
  else if s.playing then .playing
  else .paused

/-- isPaused: `INIT_DONE & ~PLAYING & ~STOPPED` (R23). -/
def State.isPaused (s : State) : Bool := s.initDone && !s.playing && !s.stopped

/-- FILE_SELECTED: `TOTAL != 0` (R11, R23). -/
def State.fileSelected (s : State) : Bool := decide (s.total ≠ 0#32)

/-- The half-rate step of a tick that finds `PLAYING` = 1: `ALT` flips when `HALF_RATE` = 1 (R61 step 2). -/
def State.flipAlt (s : State) : State := { s with alt := if s.halfRate then !s.alt else s.alt }

/-- A tick whose flip has left `ALT` = 0 in half-rate mode is inactive (R61, R62). -/
def State.inactivePhase (s : State) : Bool := s.halfRate && !s.alt

/-- The unit an active tick consumes: 2 bytes in stereo, else 1 (R61). -/
def State.unitSize (s : State) : Nat := if s.stereo then 2 else 1

/-- The output arbiter (R63), on the unit `b` the tick has consumed: stereo is tested before bridge (R49). A unit always has
`unitSize` bytes, so the last line is never reached. -/
def muxOutput (stereo bridge : Bool) (b : List Byte) : List Output :=
  match stereo, bridge, b with
  | true, _, [b0, b1] => [.dutyWrite .ch1 b0, .dutyWrite .ch2 b1]
  | false, true, [b0] => [.dutyWrite .ch1 b0, .dutyWrite .ch2 b0]
  | false, false, [b0] => [.dutyWrite .ch1 b0]
  | _, _, _ => []

end Sys2Proof.Machine
end

