-- ==== Sys2Proof/Machine/Operands.lean ====
section
/-! DEFINITION. The operand forms of the commands (spec/30_encoding.md R47, R49) and the fields the CSR reads return
(spec/10_state.md R22 to R27). -/

namespace Sys2Proof.Machine

/-- `trunc512(n) = n - (n mod 512)` (R8). -/
def trunc512 (n : Nat) : Nat := n - n % Config.block

/-- `min(trunc512(n), MAX_CAP)`, the capacity that `n` bytes of memory give (R77, R80). -/
def capacityOf (n : Nat) : Count := BitVec.ofNat 16 (min (trunc512 n) Config.maxCap)

/-- `mode[7:3] != 0`: quadro or a reserved bit (R49, R77). -/
def badMode (mode : Byte) : Bool := decide (mode.extractLsb' 3 5 ≠ 0#5)

/-- Mode bit 0, HALF_RATE (R49). -/
def modeHalfRate (mode : Byte) : Bool := mode.getLsbD 0

/-- Mode bit 1, STEREO (R49). -/
def modeStereo (mode : Byte) : Bool := mode.getLsbD 1

/-- Mode bit 2, BRIDGE (R49). -/
def modeBridge (mode : Byte) : Bool := mode.getLsbD 2

/-- `ARG0[ADDR_W-1:0]`, the base operand of SET_BUFFER (R80). -/
def State.baseOperand (s : State) : Word := BitVec.ofNat 32 (s.arg0.toNat % s.extSize)

/-- The length operand of SET_BUFFER, `ARG1` as an unsigned number (R47, R80). -/
def State.lengthOperand (s : State) : Nat := s.arg1.toNat

/-- Where an INIT takes its buffer from: capacity, `custom`, base; or the error code it fails with (R77). -/
def State.bufferOperand (s : State) : Except Byte (Count × Bool × Word) :=
  if s.customLen ≠ 0#16 then .ok (s.customLen, true, s.customBase)
  else if s.cfg.internalBufBytes = 0 then .error errBufAbsent
  else if s.cfg.internalBufBytes < Config.minCap then .error errBufSmall
  else .ok (capacityOf s.cfg.internalBufBytes, false, 0#32)

/-- The bytes the tail of the file still needs, at most one block: `min(512, TOTAL - CONSUMED)` (R68). -/
def State.commitLength (s : State) : Nat := min Config.block (s.total - s.consumed).toNat

/-- `PEND_KIND` as STATUS shows it (R17, R23). -/
def PendKind.bits : PendKind → BitVec 2
  | .none => 0
  | .init => 1
  | .lookup => 2
  | .read => 3

/-- The STATUS word, bit 31 first (R23, R82). -/
def State.statusWord (s : State) : Word :=
  0#20 ++ s.pendKind.bits ++ BitVec.ofBool s.bufCustom ++ BitVec.ofBool s.alt ++ BitVec.ofBool s.fileSelected
    ++ BitVec.ofBool s.tickEn ++ BitVec.ofBool s.result ++ BitVec.ofBool s.busy ++ BitVec.ofBool s.initDone
    ++ BitVec.ofBool s.isPaused ++ BitVec.ofBool s.stopped ++ BitVec.ofBool s.playing

/-- The UNDERRUN word: bit 0 is `UNDERRUN` (R24). -/
def State.underrunWord (s : State) : Word := 0#31 ++ BitVec.ofBool s.underrun

/-- The MODE word: bit 0 `HALF_RATE`, bit 1 `STEREO`, bit 2 `BRIDGE` (R26). -/
def State.modeWord (s : State) : Word :=
  0#29 ++ BitVec.ofBool s.bridge ++ BitVec.ofBool s.stereo ++ BitVec.ofBool s.halfRate

/-- A 16-bit counter as a CSR shows it: zero-extended (R27). -/
def countWord (c : Count) : Word := 0#16 ++ c

/-- An 8-bit field as a CSR shows it: zero-extended (R27). -/
def byteWord (b : Byte) : Word := 0#24 ++ b

end Sys2Proof.Machine
end

