-- ==== Sys2Proof/Machine/Consumer.lean ====
section
/-! DEFINITION. The sample consumer: TICK (spec/41_consumer.md). -/

namespace Sys2Proof.Machine

/-- Steps 3 and 4 of R61, for a tick that goes on to output. -/
def State.outputUnit (s : State) : Result :=
  match s.tryPeekConsume s.unitSize with
  | .insufficient => .next { s with underrun := true }
  | .unmapped => .fault .ringUnmapped
  | .taken b s' => .next (s'.emitAll (muxOutput s.stereo s.bridge b))

/-- TICK (R61). -/
def execTick (s : State) : Result :=
  if !s.playing then .next s
  else if s.flipAlt.inactivePhase then .next s.flipAlt
  else s.flipAlt.outputUnit

end Sys2Proof.Machine
end

