-- ==== Sys2Proof/Machine/Control.lean ====
section
/-! DEFINITION. The control commands, the storage responses that complete them, and illegal command words
(spec/43_control.md, spec/30_encoding.md R50). -/

namespace Sys2Proof.Machine

/-- INIT (R77). -/
def execInit (mode : Byte) (s : State) : Result :=
  s.whenIdle <|
    if badMode mode then .next (s.fail 1 errBadMode)
    else
      match s.bufferOperand with
      | .error code => .next (s.fail 1 code)
      | .ok (cap, custom, base) =>
        let s1 := if s.initDone then s.doDeinit else s
        let s2 := { s1 with pendMode := mode, pendCap := cap, pendCustom := custom, pendBase := base }
        .next ((s2.emit (.stgInit s2.csId)).pend .init)

/-- DEINIT (R79). -/
def execDeinit (s : State) : Result := s.whenIdle (.next s.doDeinit.succeed)

/-- SET_BUFFER (R80). -/
def execSetBuffer (s : State) : Result :=
  s.whenIdle <|
    if s.lengthOperand = 0 then .next (s.fail 1 errBufAbsent)
    else if s.lengthOperand < Config.minCap then .next (s.fail 1 errBufSmall)
    else .next { s with customBase := s.baseOperand, customLen := capacityOf s.lengthOperand }.succeed

/-- SET_CS (R81). -/
def execSetCs (id : Byte) (s : State) : Result := s.whenIdle (.next { s with csId := id }.succeed)

/-- SELECT_FILE (R75). -/
def execSelectFile (s : State) : Result :=
  s.whenIdle <|
    if !s.initDone then .next (s.fail 1 errNotInit)
    else .next (({ s.doStop with total := 0 }.emit (.stgLookup s.arg0)).pend .lookup)

/-- PLAY (R73). -/
def execPlay (s : State) : Result :=
  s.whenIdle <|
    if !s.initDone then .next (s.fail 1 errNotInit)
    else if s.total = 0#32 then .next (s.fail 1 errNoFile)
    else
      let s1 := if s.playing then s.doStop else s
      .next { s1 with playing := true, stopped := false, tickEn := true }.succeed

/-- PAUSE (R74). -/
def execPause (s : State) : Result :=
  s.whenIdle (.next { s with playing := if s.stopped then s.playing else !s.playing }.succeed)

/-- STOP (R72). -/
def execStop (s : State) : Result := s.whenIdle (.next s.doStop.succeed)

/-- An illegal command word (R50). -/
def execIllegal (_w : Word) (s : State) : Result := s.whenIdle (.next (s.fail 1 errBadCmd))

/-- STG_INIT_RESP (R78). On success the contents of the buffer are unspecified (R30; log 5). -/
def execStgInitResp (status : Byte) (s : State) : Result :=
  s.whenPending .init <|
    if status ≠ 0#8 then .next (s.unpend.fail 2 status)
    else
      let s1 := { s.unpend with
        cap := s.pendCap, bufCustom := s.pendCustom, bufBase := s.pendBase, bufForeign := false
        halfRate := modeHalfRate s.pendMode, stereo := modeStereo s.pendMode, bridge := modeBridge s.pendMode
        alt := false, startBlock := 0, total := 0 }
      let s2 := s1.forgetRegion 0 s1.cap.toNat
      .next { s2.doStop with initDone := true }.succeed

/-- STG_LOOKUP_RESP (R76). -/
def execStgLookupResp (status : Byte) (start length : Word) (s : State) : Result :=
  s.whenPending .lookup <|
    if status ≠ 0#8 then .next (s.unpend.fail 3 status)
    else .next { s.unpend with startBlock := start, total := length, consumed := 0, blkIdx := start }.succeed

end Sys2Proof.Machine
end

