-- ==== Sys2Proof/Machine/Producer.lean ====
section
/-! DEFINITION. The refill sequencer: REFILL and STG_READ_RESP (spec/42_producer.md). -/

namespace Sys2Proof.Machine

/-- REFILL (R67). The bytes it reserves belong to the storage collaborator, "which may write them at any time before its
response" (R21), so they become unspecified here (log 5). -/
def execRefill (s : State) : Result :=
  s.whenIdle <|
    if s.total = 0#32 then .next s.succeed
    else if s.consumed < s.total then
      match s.reserveProduce Config.block with
      | none => .next s.succeed
      | some wr => .next ({ (s.forgetRegion wr Config.block).emit (.stgRead s.blkIdx wr) with blkIdx := s.blkIdx + 1 }.pend .read)
    else if s.occ.toNat ≤ 1 then .next s.doStop.succeed
    else .next s.succeed

/-- STG_READ_RESP (R68). All 512 bytes of a tail block are stored, as R68 has it (log 11). On a failure the reserved
bytes become unspecified (R68; log 5). -/
def execStgReadResp (status : Byte) (data : Vector Byte 512) (s : State) : Result :=
  s.whenPending .read <|
    if status = 0#8 then
      if s.cap = 0#16 then .fault .ringUnmapped
      else
        let s1 := (s.unpend.writeRegion s.wr data.toList).commitProduce s.commitLength
        .next { s1 with consumed := s.consumed + BitVec.ofNat 32 s.commitLength }.succeed
    else .next ((s.unpend.forgetRegion s.wr Config.block).doStop.fail 4 status)

end Sys2Proof.Machine
end

