-- ==== Sys2Proof/Machine/Queries.lean ====
section
/-! DEFINITION. The CSR reads and the writes of other registers (spec/44_queries.md). They are accepted whatever `BUSY` is. -/

namespace Sys2Proof.Machine

/-- Read CMD: 0 (R86). -/
def execRdCmd (s : State) : Result := .next (s.answer 0)

/-- Read ARG0 (R85). -/
def execRdArg0 (s : State) : Result := .next (s.answer s.arg0)

/-- Read ARG1 (R85). -/
def execRdArg1 (s : State) : Result := .next (s.answer s.arg1)

/-- Read STATUS (R82). -/
def execRdStatus (s : State) : Result := .next (s.answer s.statusWord)

/-- Read UNDERRUN, which clears it (R83). -/
def execRdUnderrun (s : State) : Result := .next ({ s with underrun := false }.answer s.underrunWord)

/-- Read LASTERR, which clears it (R84). -/
def execRdLasterr (s : State) : Result := .next (s.clearLasterr.answer s.lasterrWord)

/-- Read MODE (R85, R26). -/
def execRdMode (s : State) : Result := .next (s.answer s.modeWord)

/-- Read CAPACITY (R85). -/
def execRdCapacity (s : State) : Result := .next (s.answer (countWord s.cap))

/-- Read OCCUPIED (R85). -/
def execRdOccupied (s : State) : Result := .next (s.answer (countWord s.occ))

/-- Read RD_PTR (R85). -/
def execRdRdPtr (s : State) : Result := .next (s.answer (countWord s.rd))

/-- Read WR_PTR (R85). -/
def execRdWrPtr (s : State) : Result := .next (s.answer (countWord s.wr))

/-- Read START_BLOCK (R85). -/
def execRdStartBlock (s : State) : Result := .next (s.answer s.startBlock)

/-- Read TOTAL_BYTES (R85). -/
def execRdTotalBytes (s : State) : Result := .next (s.answer s.total)

/-- Read BYTES_CONSUMED (R85). -/
def execRdBytesConsumed (s : State) : Result := .next (s.answer s.consumed)

/-- Read BLOCK_INDEX (R85). -/
def execRdBlockIndex (s : State) : Result := .next (s.answer s.blkIdx)

/-- Read CS_ID (R85). -/
def execRdCsId (s : State) : Result := .next (s.answer (byteWord s.csId))

/-- Read CUSTOM_BASE (R85). -/
def execRdCustomBase (s : State) : Result := .next (s.answer s.customBase)

/-- Read CUSTOM_LEN (R85). -/
def execRdCustomLen (s : State) : Result := .next (s.answer (countWord s.customLen))

/-- Read an unmapped offset: 0 (R86). -/
def execRdUnmapped (_sel : BitVec 6) (s : State) : Result := .next (s.answer 0)

/-- Write ARG0 (R87). -/
def execWrArg0 (d : Word) (s : State) : Result := .next { s with arg0 := d }

/-- Write ARG1 (R87). -/
def execWrArg1 (d : Word) (s : State) : Result := .next { s with arg1 := d }

/-- Write a read-only, read-to-clear or unmapped offset: no state change (R88). -/
def execWrIgnored (_sel : BitVec 6) (_d : Word) (s : State) : Result := .next s

end Sys2Proof.Machine
end

