-- ==== Sys2Proof/Machine/Dispatch.lean ====
section
/-! DEFINITION. One arm for each instruction. -/

namespace Sys2Proof.Machine

def exec (i : Instr) (s : State) : Host.Outcome State Fault Refusal :=
  match i with
  | .init mode => Sys2Proof.Machine.execInit mode s
  | .deinit => Sys2Proof.Machine.execDeinit s
  | .setBuffer => Sys2Proof.Machine.execSetBuffer s
  | .setCs id => Sys2Proof.Machine.execSetCs id s
  | .selectFile => Sys2Proof.Machine.execSelectFile s
  | .play => Sys2Proof.Machine.execPlay s
  | .pause => Sys2Proof.Machine.execPause s
  | .stop => Sys2Proof.Machine.execStop s
  | .refill => Sys2Proof.Machine.execRefill s
  | .illegal w => Sys2Proof.Machine.execIllegal w s
  | .rdCmd => Sys2Proof.Machine.execRdCmd s
  | .rdArg0 => Sys2Proof.Machine.execRdArg0 s
  | .rdArg1 => Sys2Proof.Machine.execRdArg1 s
  | .rdStatus => Sys2Proof.Machine.execRdStatus s
  | .rdUnderrun => Sys2Proof.Machine.execRdUnderrun s
  | .rdLasterr => Sys2Proof.Machine.execRdLasterr s
  | .rdMode => Sys2Proof.Machine.execRdMode s
  | .rdCapacity => Sys2Proof.Machine.execRdCapacity s
  | .rdOccupied => Sys2Proof.Machine.execRdOccupied s
  | .rdRdPtr => Sys2Proof.Machine.execRdRdPtr s
  | .rdWrPtr => Sys2Proof.Machine.execRdWrPtr s
  | .rdStartBlock => Sys2Proof.Machine.execRdStartBlock s
  | .rdTotalBytes => Sys2Proof.Machine.execRdTotalBytes s
  | .rdBytesConsumed => Sys2Proof.Machine.execRdBytesConsumed s
  | .rdBlockIndex => Sys2Proof.Machine.execRdBlockIndex s
  | .rdCsId => Sys2Proof.Machine.execRdCsId s
  | .rdCustomBase => Sys2Proof.Machine.execRdCustomBase s
  | .rdCustomLen => Sys2Proof.Machine.execRdCustomLen s
  | .rdUnmapped sel => Sys2Proof.Machine.execRdUnmapped sel s
  | .wrArg0 d => Sys2Proof.Machine.execWrArg0 d s
  | .wrArg1 d => Sys2Proof.Machine.execWrArg1 d s
  | .wrIgnored sel d => Sys2Proof.Machine.execWrIgnored sel d s
  | .tick => Sys2Proof.Machine.execTick s
  | .stgInitResp status => Sys2Proof.Machine.execStgInitResp status s
  | .stgLookupResp status start length => Sys2Proof.Machine.execStgLookupResp status start length s
  | .stgReadResp status data => Sys2Proof.Machine.execStgReadResp status data s

end Sys2Proof.Machine
end

