-- ==== Sys2Proof/Machine/Fetch.lean ====
section
/-! DEFINITION. Which event reaches the block next (spec/20_memory.md R36), taken from the list of what will arrive. -/

namespace Sys2Proof.Machine

/-- What happens next, with what is left to arrive after it. -/
inductive Delivery where
  /-- Nothing is left to arrive. -/
  | nothing
  /-- Reset is applied. -/
  | reset (rest : List Arrival)
  /-- Another agent reads external memory. -/
  | foreignRead (addr : Word) (rest : List Arrival)
  /-- Another agent writes external memory. -/
  | foreignWrite (addr : Word) (rest : List Arrival)
  /-- A clock cycle ends in which no event is left. -/
  | quiet (rest : List Arrival)
  /-- An event of a port reaches the block. -/
  | port (p : PortInput) (rest : List Arrival)
deriving DecidableEq, Repr

/-- In one clock cycle "first the TICK, then the storage response, then the host's CSR access" (R36). Each is a step of its
own: what is left of the cycle stays at the head. A list of cycles with one event each gives every interleaving (R37; log 3). -/
def delivery : List Arrival → Delivery
  | [] => .nothing
  | .reset :: rest => .reset rest
  | .foreignRead addr :: rest => .foreignRead addr rest
  | .foreignWrite addr :: rest => .foreignWrite addr rest
  | .cycle true resp host :: rest => .port .tick (.cycle false resp host :: rest)
  | .cycle false (some r) host :: rest => .port (.stg r) (.cycle false none host :: rest)
  | .cycle false none (some a) :: rest => .port (.csr a) rest
  | .cycle false none none :: rest => .quiet rest

/-- A clock cycle in which one event alone reaches the block. -/
def Arrival.only : PortInput → Arrival
  | .tick => .cycle true none none
  | .stg r => .cycle false (some r) none
  | .csr a => .cycle false none (some a)

/-- The input that `nbits` bits of value `w` stand for is the next to arrive. Bits of a length that is no format's place
nothing (log 10). -/
def State.placeInput (s : State) (nbits w : Nat) : State :=
  match tableInput nbits w with
  | some p => { s with inputs := Arrival.only p :: s.inputs }
  | none => s

end Sys2Proof.Machine
end

