-- ==== Sys2Proof/Machine/Step.lean ====
section
/-! DEFINITION. One step: the next event that reaches the block is decoded and run as one atomic transition
(spec/20_memory.md R36). -/

namespace Sys2Proof.Machine

/-- One step (R14, R36). An input that is no instruction, a write with partial byte enables, changes nothing (R32). With
nothing left to arrive the block stays as it is (log 1). -/
def step (s : State) : Host.Outcome State Fault Refusal :=
  match delivery s.inputs with
  | .nothing => .next s
  | .reset rest => .next (s.taking rest).applyReset
  | .foreignRead addr rest => .next ((s.taking rest).foreignAccess addr)
  | .foreignWrite addr rest => .next ((s.taking rest).foreignWrite addr)
  | .quiet rest => .next (s.taking rest)
  | .port p rest =>
    match decode p with
    | .ok i => exec i (s.taking rest)
    | .error .partialWrite => .next (s.taking rest)

/-- `s` with the instruction of `nbits` bits and value `w` as the next input to arrive (log 10). -/
def State.withFetchWord (s : State) (nbits w : Nat) : State := s.placeInput nbits w

end Sys2Proof.Machine
end

