-- ==== Sys2Proof/Safety.lean ====
section
/-! DEFINITION. What the statements say of states and runs: the twelve invariants of spec/10_state.md R20, the inductive
invariant that carries them, reachability, and the ring buffer's contents as a queue (spec/40_ring_buffer.md R55). -/

namespace Sys2Proof.Machine

/-- "C mod 512 = 0 and 1024 ≤ C ≤ MAX_CAP" (R20 item 3). -/
def LegalCapacity (c : Count) : Prop :=
  c.toNat % Config.block = 0 ∧ Config.minCap ≤ c.toNat ∧ c.toNat ≤ Config.maxCap

/-- `ceil(n / 512)`. -/
def blocksOf (n : Nat) : Nat := (n + 511) / 512

/-- The invariants of R20; the number in a field's docstring is the item's. -/
structure SpecInv (s : State) : Prop where
  /-- Item 1. -/
  occupancy : s.occ.toNat ≤ s.cap.toNat
  /-- Item 2, `C > 0`. -/
  cursors : s.cap ≠ 0#16 →
    s.rd.toNat < s.cap.toNat ∧ s.wr.toNat < s.cap.toNat ∧ s.wr.toNat = (s.rd.toNat + s.occ.toNat) % s.cap.toNat
  /-- Item 2, `C = 0`. -/
  noRing : s.cap = 0#16 → s.rd = 0#16 ∧ s.wr = 0#16 ∧ s.occ = 0#16
  /-- Item 3, the values of `C`. -/
  capacity : s.cap = 0#16 ∨ LegalCapacity s.cap
  /-- Item 3, `C = 0` exactly when `INIT_DONE = 0`. -/
  capacityInit : s.cap = 0#16 ↔ s.initDone = false
  /-- Item 4. -/
  oneState : ¬(s.playing = true ∧ s.stopped = true)
  /-- Item 5. -/
  uninitialized : s.initDone = false → s.stopped = true ∧ s.playing = false ∧ s.total = 0#32
  /-- Item 6. -/
  playingTicks : s.playing = true → s.tickEn = true
  /-- Item 7. -/
  consumedTotal : s.consumed.toNat ≤ s.total.toNat
  /-- Item 8. -/
  blockAligned : s.consumed.toNat < s.total.toNat →
    s.wr.toNat % Config.block = 0 ∧ s.consumed.toNat % Config.block = 0
  /-- Item 9. -/
  busyPending : s.busy = true ↔ s.pendKind ≠ .none
  /-- Item 10. -/
  reservation : s.pendKind = .read → Config.block ≤ s.cap.toNat - s.occ.toNat
  /-- Item 11. -/
  blockIndex : s.busy = false → s.total ≠ 0#32 →
    s.blkIdx = s.startBlock + BitVec.ofNat 32 (blocksOf s.consumed.toNat)
  /-- Item 12. -/
  customLength : s.customLen = 0#16 ∨ LegalCapacity s.customLen

/-- The inductive invariant: R20, what a pending request promises (R21), and the placement of the two memories (R29). -/
structure Inv (s : State) : Prop extends SpecInv s where
  /-- An INIT waits in Uninitialized with a legal capacity that its memory holds (R77). -/
  initPending : s.pendKind = .init → s.initDone = false ∧ LegalCapacity s.pendCap ∧
    (s.pendCustom = false → s.pendCap.toNat ≤ s.cfg.internalBufBytes)
  /-- A lookup waits with the ring empty and no file (R75). -/
  lookupPending : s.pendKind = .lookup → s.initDone = true ∧ s.playing = false ∧ s.total = 0#32 ∧
    s.rd = 0#16 ∧ s.wr = 0#16 ∧ s.occ = 0#16
  /-- A block read waits with part of the file unread, and `BLK_IDX` already advanced (R67). -/
  readPending : s.pendKind = .read → s.consumed.toNat < s.total.toNat ∧
    s.blkIdx = s.startBlock + BitVec.ofNat 32 (s.consumed.toNat / 512) + 1
  /-- Base addresses have `ADDR_W` bits (R17). -/
  bases : s.customBase.toNat < s.extSize ∧ s.pendBase.toNat < s.extSize ∧ s.bufBase.toNat < s.extSize
  /-- An internal ring lies in the internal RAM (R29). -/
  internalFits : s.bufCustom = false → s.cap.toNat ≤ s.cfg.internalBufBytes
  /-- Only PLAY leaves Stopped, and it enables the tick source, which stays enabled (R66, R73). -/
  startedTicks : s.stopped = false → s.tickEn = true
  /-- `ALT` is 1 in half-rate mode only (R61, R78, R79). -/
  altHalfRate : s.halfRate = false → s.alt = false
  /-- While storage owes a block, what the reserved bytes hold is not known (R21). -/
  reservedUnknown : s.pendKind = .read → ∀ k, k < Config.block →
    Memory.get? s.bufMem (s.bufKey (s.ringOff s.wr k)) = none
  /-- Both memories keep their canonical form. -/
  memories : Memory.wf s.ram ∧ Memory.wf s.ext
  /-- No listed byte lies outside the internal RAM or the external address space. -/
  inMemory : (∀ c ∈ s.ram, c.1 < s.cfg.internalBufBytes) ∧ ∀ c ∈ s.ext, c.1 < s.extSize

/-- The states of the runs from reset, for every value of the parameters and whatever arrives at the ports. -/
inductive Reachable : State → Prop where
  | reset (cfg : Params) (inputs : List Arrival) : Reachable { State.reset with cfg := cfg, inputs := inputs }
  | step {s s' : State} : Reachable s → step s = .next s' → Reachable s'

/-- A step does not stop the machine. -/
def Goes (s : State) : Prop := ∃ s', step s = .next s'

/-- What the ring holds at offset `off` (R29): none where the contents are unspecified (R30, R43). -/
def State.ringByte (s : State) (off : Nat) : Option Byte := Memory.get? s.bufMem (s.bufKey off)

/-- The occupied bytes, oldest first: `BufMem[(RD + i) mod C]` for `i = 0 .. OCC-1` (R55). -/
def State.queue (s : State) : List (Option Byte) :=
  (List.range s.occ.toNat).map fun i => s.ringByte (s.ringOff s.rd i)

/-- The duty writes among the events sent, oldest first: "the observable output of the block" (R65). -/
def dutyWrites (os : List Output) : List (Channel × Byte) :=
  os.filterMap fun o => match o with
    | .dutyWrite ch v => some (ch, v)
    | .stgInit _ | .stgLookup _ | .stgRead _ _ | .csrData _ => none

/-- The commands: what a CMD word decodes to (R48). -/
def isCommand : Instr → Bool
  | .init _ | .deinit | .setBuffer | .setCs _ | .selectFile | .play | .pause | .stop | .refill | .illegal _ => true
  | .rdCmd | .rdArg0 | .rdArg1 | .rdStatus | .rdUnderrun | .rdLasterr | .rdMode | .rdCapacity | .rdOccupied
  | .rdRdPtr | .rdWrPtr | .rdStartBlock | .rdTotalBytes | .rdBytesConsumed | .rdBlockIndex | .rdCsId
  | .rdCustomBase | .rdCustomLen | .rdUnmapped _ | .wrArg0 _ | .wrArg1 _ | .wrIgnored _ _
  | .tick | .stgInitResp _ | .stgLookupResp _ _ _ | .stgReadResp _ _ => false

/-- The storage responses (R53). -/
def isStorageResponse : Instr → Bool
  | .stgInitResp _ | .stgLookupResp _ _ _ | .stgReadResp _ _ => true
  | .init _ | .deinit | .setBuffer | .setCs _ | .selectFile | .play | .pause | .stop | .refill | .illegal _
  | .rdCmd | .rdArg0 | .rdArg1 | .rdStatus | .rdUnderrun | .rdLasterr | .rdMode | .rdCapacity | .rdOccupied
  | .rdRdPtr | .rdWrPtr | .rdStartBlock | .rdTotalBytes | .rdBytesConsumed | .rdBlockIndex | .rdCsId
  | .rdCustomBase | .rdCustomLen | .rdUnmapped _ | .wrArg0 _ | .wrArg1 _ | .wrIgnored _ _ | .tick => false

/-- The instructions that may run `DoStop` (R72): STOP, DEINIT and a re-initialization (R79), SELECT_FILE (R75), PLAY while
Playing (R73), REFILL at end of stream (R67), a completed INIT (R78) and a failed read (R68). -/
def mayStop : Instr → Bool
  | .init _ | .deinit | .selectFile | .play | .stop | .refill | .stgInitResp _ | .stgReadResp _ _ => true
  | .setBuffer | .setCs _ | .pause | .illegal _ | .stgLookupResp _ _ _
  | .rdCmd | .rdArg0 | .rdArg1 | .rdStatus | .rdUnderrun | .rdLasterr | .rdMode | .rdCapacity | .rdOccupied
  | .rdRdPtr | .rdWrPtr | .rdStartBlock | .rdTotalBytes | .rdBytesConsumed | .rdBlockIndex | .rdCsId
  | .rdCustomBase | .rdCustomLen | .rdUnmapped _ | .wrArg0 _ | .wrArg1 _ | .wrIgnored _ _ | .tick => false

/-- An event without the value of a duty write. -/
def Output.shape : Output → Output
  | .dutyWrite ch _ => .dutyWrite ch 0
  | .stgInit cs => .stgInit cs
  | .stgLookup name => .stgLookup name
  | .stgRead blk off => .stgRead blk off
  | .csrData d => .csrData d

/-- A command: a CSR write of the word `w` at offset 0x00 with all four byte enables (R46). -/
def commandWrite (w : Word) : PortInput := .csr (.write 0x00#8 0xF#4 (Lanes.ofWord w))

/-- A full-width CSR write at the byte offset `off`. -/
def registerWrite (off : BitVec 8) (w : Word) : PortInput := .csr (.write off 0xF#4 (Lanes.ofWord w))

/-- Every occupied byte of an internal ring is known: it was written since its contents were last unspecified (R30). -/
def OccupiedKnown (s : State) : Prop := s.bufCustom = false → ∀ b ∈ s.queue, b ≠ none

/-- `t` is `s` but for what the two memories hold. -/
def SameButMemory (s t : State) : Prop := t = { s with ram := t.ram, ext := t.ext }

/-- `t` is `s` but for what the two memories hold and for the values of what was sent. -/
def SameButMemoryAndOutputs (s t : State) : Prop := t = { s with ram := t.ram, ext := t.ext, outs := t.outs }

/-- `n` ticks in a row, none of which stops the machine: `Ticks n s s'` (R62). -/
inductive Ticks : Nat → State → State → Prop where
  | none (s : State) : Ticks 0 s s
  | more {n : Nat} {s s' s'' : State} : exec .tick s = .next s' → Ticks n s' s'' → Ticks (n + 1) s s''

end Sys2Proof.Machine
end

