-- ==== Sys2Proof/Certificates/Slice0/Obligations.lean ====
section
/-! DEFINITION. The statements for the provers. A statement of an instruction gives the whole next state, so that it is also the
instruction's frame: a record update leaves every field it does not name. The fields `inputs`, `outs`, `draws`, `bufForeign` and
`cfg` are the model's own (logs 1, 2, 4, 6 and 7). -/

open Sys2Proof Sys2Proof.Machine

/-! ### Encoding -/

/-- Decoding an encoded well-formed instruction gives it back, for every instruction and every operand (R46, R48, R52, R53). -/
def Obligations.DecodeEncodeAgree : Prop := ∀ i : Instr, i.wf = true → decode (encode i) = .ok i

/-- Whatever arrives, an instruction the decoder gives is well-formed: an illegal word is given as ILLEGAL only, and no mapped
offset as unmapped. -/
def Obligations.DecodedInstructionsAreWellFormed : Prop := ∀ (p : PortInput) (i : Instr), decode p = .ok i → i.wf = true

/-- Words written out from R48 and R49 decode to what they stand for (vectors E1, E2, E7, E8, E11, E12 and E14). -/
def Obligations.SampleCommandWordsDecode : Prop :=
  decode (commandWrite 0x00000001#32) = .ok (.init 0x00) ∧ decode (commandWrite 0x00000301#32) = .ok (.init 0x03) ∧
  decode (commandWrite 0x0000FF04#32) = .ok (.setCs 0xFF) ∧ decode (commandWrite 0x00000009#32) = .ok .refill ∧
  decode (commandWrite 0x00000000#32) = .ok (.illegal 0) ∧ decode (commandWrite 0x00000106#32) = .ok (.illegal 0x106) ∧
  decode (commandWrite 0x00010001#32) = .ok (.illegal 0x10001)

/-- The command map of R48: the match and mask pairs decide which command a word is, every other word is illegal, and a word is
legal exactly when OP is 0x01 .. 0x09, RSV = 0, and IMM8 = 0 unless OP is 0x01 or 0x04. -/
def Obligations.CommandMapByMatchAndMask : Prop :=
  ∀ w : Word,
    decode (commandWrite w) = .ok (
      if w &&& 0xFFFF00FF#32 = 0x00000001#32 then .init (w.extractLsb' 8 8)
      else if w &&& 0xFFFFFFFF#32 = 0x00000002#32 then .deinit
      else if w &&& 0xFFFFFFFF#32 = 0x00000003#32 then .setBuffer
      else if w &&& 0xFFFF00FF#32 = 0x00000004#32 then .setCs (w.extractLsb' 8 8)
      else if w &&& 0xFFFFFFFF#32 = 0x00000005#32 then .selectFile
      else if w &&& 0xFFFFFFFF#32 = 0x00000006#32 then .play
      else if w &&& 0xFFFFFFFF#32 = 0x00000007#32 then .pause
      else if w &&& 0xFFFFFFFF#32 = 0x00000008#32 then .stop
      else if w &&& 0xFFFFFFFF#32 = 0x00000009#32 then .refill
      else .illegal w) ∧
    (decode (commandWrite w) ≠ .ok (.illegal w) ↔
      (1 ≤ (w.extractLsb' 0 8).toNat ∧ (w.extractLsb' 0 8).toNat ≤ 9) ∧ w.extractLsb' 16 16 = 0#16 ∧
      (w.extractLsb' 8 8 = 0#8 ∨ w.extractLsb' 0 8 = 0x01#8 ∨ w.extractLsb' 0 8 = 0x04#8))

/-- Alignment and width of CSR accesses (R32): offset bits 1:0 do not matter, a read's byte enables do not matter, a read returns
a whole word, a partial write changes nothing (but the model's own record of what is still to arrive), and no access stops the
machine. -/
def Obligations.CsrAccessWidthAndAlignment : Prop :=
  (∀ (off off' : BitVec 8) (be be' : BitVec 4), off &&& 0xFC#8 = off' &&& 0xFC#8 →
    decode (.csr (.read off be)) = decode (.csr (.read off' be'))) ∧
  (∀ (off off' : BitVec 8) (be : BitVec 4) (d : Lanes), off &&& 0xFC#8 = off' &&& 0xFC#8 →
    decode (.csr (.write off be d)) = decode (.csr (.write off' be d))) ∧
  (∀ (s : State) (off : BitVec 8) (be : BitVec 4) (d : Lanes) (rest : List Arrival),
    delivery s.inputs = .port (.csr (.write off be d)) rest → be ≠ 0xF#4 →
    step s = .next { s with inputs := rest, draws := s.draws + 1 }) ∧
  (∀ (s : State) (off : BitVec 8) (be : BitVec 4) (rest : List Arrival),
    delivery s.inputs = .port (.csr (.read off be)) rest →
    ∃ s' v, step s = .next s' ∧ s'.outs = s.outs ++ [.csrData (Lanes.ofWord v)]) ∧
  (∀ (s : State) (a : CsrAccess) (rest : List Arrival), delivery s.inputs = .port (.csr a) rest →
    ∃ s', step s = .next s')

/-! ### The step -/

/-- A step runs the instruction its event decodes to, on the state that has taken the event (R36, R44); the model's draw counter
moves on (log 4). -/
def Obligations.StepRunsDecodedInstruction : Prop :=
  ∀ (s : State) (p : PortInput) (rest : List Arrival) (i : Instr),
    delivery s.inputs = .port p rest → decode p = .ok i →
    step s = exec i { s with inputs := rest, draws := s.draws + 1 }

/-- "First the TICK, then the storage response, then the host's CSR access" (R36): the order in which the events of one clock
cycle reach the block. -/
def Obligations.SameClockCycleOrder : Prop :=
  ∀ (r : Option StgResp) (a : Option CsrAccess) (rest : List Arrival),
    delivery (.cycle true r a :: rest) = .port .tick (.cycle false r a :: rest) ∧
    (∀ x, delivery (.cycle false (some x) a :: rest) = .port (.stg x) (.cycle false none a :: rest)) ∧
    (∀ x, delivery (.cycle false none (some x) :: rest) = .port (.csr x) rest)

/-- No step changes the implementation's parameters (R6; the model's choice of where they stand, log 7). -/
def Obligations.ParametersNeverChange : Prop := ∀ s s' : State, step s = .next s' → s'.cfg = s.cfg

/-! ### The ring buffer -/

/-- The contracts of the ring buffer's operations (R56 to R59): insufficient data and insufficient space are answers without
effect, and the cursors and the occupancy move as the pseudocode says. -/
def Obligations.RingOperationsFollowTheirContracts : Prop :=
  (∀ (s : State) (n : Nat), s.occ.toNat < n → s.tryPeekConsume n = .insufficient) ∧
  (∀ (s : State) (n : Nat), n ≤ s.occ.toNat → s.cap ≠ 0#16 →
    s.tryPeekConsume n = .taken ((List.range n).map fun i => s.memRead ((s.rd.toNat + i) % s.cap.toNat))
      { s with rd := BitVec.ofNat 16 ((s.rd.toNat + n) % s.cap.toNat), occ := s.occ - BitVec.ofNat 16 n }) ∧
  (∀ (s : State) (n : Nat), s.reserveProduce n = if (s.cap - s.occ).toNat < n then none else some s.wr) ∧
  (∀ (s : State) (m : Nat), s.commitProduce m =
    { s with wr := BitVec.ofNat 16 ((s.wr.toNat + m) % s.cap.toNat), occ := s.occ + BitVec.ofNat 16 m }) ∧
  (∀ s : State, s.ringReset = { s with rd := 0, wr := 0, occ := 0 })

/-- The ring is a queue (R55, R56, R58, R68). From a state of the invariant, a tick takes the oldest bytes off the queue and sends
them (any value where the buffer is unreliable or the byte is not known: log 4, log 6), and a successful read response appends the
committed bytes of the block, in order, where the buffer's region does not wrap. -/
def Obligations.RingIsAQueueOfTheBlocksBytes : Prop :=
  (∀ s s' : State, Inv s → exec .tick s = .next s' →
    (s'.queue = s.queue ∧ s'.outs = s.outs) ∨
    (s.stereo = false ∧ ∃ x b, s.queue = x :: s'.queue ∧ (s.bufUnreliable = false → ∀ y, x = some y → b = y) ∧
      dutyWrites s'.outs = dutyWrites s.outs ++ (if s.bridge then [(.ch1, b), (.ch2, b)] else [(.ch1, b)])) ∨
    (s.stereo = true ∧ ∃ x0 x1 b0 b1, s.queue = x0 :: x1 :: s'.queue ∧
      (s.bufUnreliable = false → (∀ y, x0 = some y → b0 = y) ∧ (∀ y, x1 = some y → b1 = y)) ∧
      dutyWrites s'.outs = dutyWrites s.outs ++ [(.ch1, b0), (.ch2, b1)])) ∧
  (∀ (s s' : State) (data : Vector Byte 512), Inv s → s.bufWraps = false → s.pendKind = .read →
    exec (.stgReadResp 0 data) s = .next s' →
    s'.queue = s.queue ++ (data.toList.take (min 512 (s.total.toNat - s.consumed.toNat))).map some)

/-- `OCC` changes in exactly three ways (R38, R60): a tick takes a unit, a read response adds what it commits, and Stop (also
inside DEINIT, re-initialization, SELECT_FILE, PLAY while Playing, end of stream and a failed read) makes it 0. -/
def Obligations.OccupancyChangesInThreeWays : Prop :=
  ∀ (i : Instr) (s s' : State), exec i s = .next s' →
    s'.occ = s.occ ∨
    (i = .tick ∧ s'.occ = s.occ - (if s.stereo then 2#16 else 1#16)) ∨
    (∃ data, i = .stgReadResp 0 data ∧ s.pendKind = .read ∧
      s'.occ = s.occ + BitVec.ofNat 16 (min 512 (s.total - s.consumed).toNat)) ∨
    (s'.occ = 0#16 ∧ s'.rd = 0#16 ∧ s'.wr = 0#16 ∧ s'.consumed = 0#32 ∧ s'.playing = (i == .play))

/-- Cursor ownership (R39): `RD` is advanced by the tick only and `WR` by the read response only; whatever else changes one is a
Stop, which sets both, the occupancy and `CONSUMED` to 0. -/
def Obligations.CursorOwnership : Prop :=
  ∀ (i : Instr) (s s' : State), exec i s = .next s' →
    (s'.rd = 0#16 ∧ s'.wr = 0#16 ∧ s'.occ = 0#16 ∧ s'.consumed = 0#32) ∨
    ((s'.rd ≠ s.rd → i = .tick) ∧ (s'.wr ≠ s.wr → ∃ data, i = .stgReadResp 0 data))

/-! ### The consumer -/

/-- TICK (R61, R63), with every field it leaves alone. -/
def Obligations.TickConsumesAndOutputs : Prop :=
  decode .tick = .ok .tick ∧
  ∀ s : State,
    (s.playing = false → exec .tick s = .next s) ∧
    (s.playing = true → s.halfRate = true → s.alt = true → exec .tick s = .next { s with alt := false }) ∧
    (s.playing = true → (s.halfRate = true → s.alt = false) →
      (s.occ.toNat < (if s.stereo then 2 else 1) →
        exec .tick s = .next { s with alt := (if s.halfRate then true else s.alt), underrun := true }) ∧
      (s.cap ≠ 0#16 → s.stereo = false → 1 ≤ s.occ.toNat →
        exec .tick s = .next { s with
          alt := (if s.halfRate then true else s.alt)
          rd := BitVec.ofNat 16 ((s.rd.toNat + 1) % s.cap.toNat)
          occ := s.occ - 1#16
          outs := s.outs ++ (
            if s.bridge then
              [.dutyWrite .ch1 (s.memRead (s.rd.toNat % s.cap.toNat)), .dutyWrite .ch2 (s.memRead (s.rd.toNat % s.cap.toNat))]
            else [.dutyWrite .ch1 (s.memRead (s.rd.toNat % s.cap.toNat))]) }) ∧
      (s.cap ≠ 0#16 → s.stereo = true → 2 ≤ s.occ.toNat →
        exec .tick s = .next { s with
          alt := (if s.halfRate then true else s.alt)
          rd := BitVec.ofNat 16 ((s.rd.toNat + 2) % s.cap.toNat)
          occ := s.occ - 2#16
          outs := s.outs ++ [.dutyWrite .ch1 (s.memRead (s.rd.toNat % s.cap.toNat)),
            .dutyWrite .ch2 (s.memRead ((s.rd.toNat + 1) % s.cap.toNat))] }))

/-- Half rate (R62): over any `n` ticks in a row while Playing at half rate, the phases alternate strictly and at most
`ceil(n / 2)` units are drained, at most `floor(n / 2)` where the first of them is inactive. -/
def Obligations.HalfRateDrainsAtMostHalfTheTicks : Prop :=
  ∀ (n : Nat) (s s' : State), s.playing = true → s.halfRate = true → Ticks n s s' →
    s'.alt = (if n % 2 = 0 then s.alt else !s.alt) ∧
    s.occ.toNat ≤ s'.occ.toNat + (if s.stereo then 2 else 1) * ((n + (if s.alt then 0 else 1)) / 2)

/-- UNDERRUN is set by a tick only, and cleared by a read of UNDERRUN or by reset only (R18, R64, R83). -/
def Obligations.UnderrunStaysUntilRead : Prop :=
  ∀ s s' : State, step s = .next s' →
    (s.underrun = true → s'.underrun = false →
      (∃ rest, delivery s.inputs = .reset rest) ∨
      (∃ p rest, delivery s.inputs = .port p rest ∧ decode p = .ok .rdUnderrun)) ∧
    (s.underrun = false → s'.underrun = true → ∃ p rest, delivery s.inputs = .port p rest ∧ decode p = .ok .tick)

/-- What each instruction may send (R15, R65): duty writes a tick only, on channel 1 and then perhaps on channel 2; storage
requests only INIT, SELECT_FILE and REFILL, one each; read data only the CSR reads; and nothing already sent changes. The
instructions are the well-formed ones, which is all that the decoder gives. -/
def Obligations.OutputsComeOnlyFromTheirInstructions : Prop :=
  ∀ (i : Instr) (s s' : State), i.wf = true → exec i s = .next s' →
    ∃ new, s'.outs = s.outs ++ new ∧
      (new = [] ∨
       (i = .tick ∧ s.playing = true ∧
         ∃ b0, new = [.dutyWrite .ch1 b0] ∨ ∃ b1, new = [.dutyWrite .ch1 b0, .dutyWrite .ch2 b1]) ∨
       (∃ mode, i = .init mode ∧ new = [.stgInit s.csId]) ∨
       (i = .selectFile ∧ new = [.stgLookup s.arg0]) ∨
       (i = .refill ∧ new = [.stgRead s.blkIdx s.wr]) ∨
       ((∃ off be, decode (.csr (.read off be)) = .ok i) ∧ ∃ v, new = [.csrData (Lanes.ofWord v)]))

/-! ### The refill sequencer -/

/-- REFILL (R67), with every field it leaves alone. The 512 bytes that it reserves belong to the storage collaborator from here on
(R21; `Obligations.ReservedBytesBelongToStorage`), and every other byte of both memories is left. -/
def Obligations.RefillRule : Prop :=
  decode (commandWrite 0x00000009#32) = .ok .refill ∧
  ∀ s : State,
    (s.busy = true → exec .refill s = .next s) ∧
    (s.busy = false →
      (s.total = 0#32 → exec .refill s = .next { s with result := true }) ∧
      (s.total ≠ 0#32 → s.consumed.toNat < s.total.toNat → (s.cap - s.occ).toNat < 512 →
        exec .refill s = .next { s with result := true }) ∧
      (s.total ≠ 0#32 → s.consumed.toNat < s.total.toNat → 512 ≤ (s.cap - s.occ).toNat →
        ∃ t, exec .refill s = .next t ∧
          { t with ram := s.ram, ext := s.ext } = { s with
            outs := s.outs ++ [.stgRead s.blkIdx s.wr], blkIdx := s.blkIdx + 1#32, busy := true, pendKind := .read } ∧
          (if s.bufCustom then t.ram = s.ram else t.ext = s.ext) ∧
          (∀ a, (∀ k, k < 512 → s.bufKey ((s.wr.toNat + k) % s.cap.toNat) ≠ a) →
            Memory.get? t.bufMem a = Memory.get? s.bufMem a)) ∧
      (s.total ≠ 0#32 → s.total.toNat ≤ s.consumed.toNat → s.occ.toNat ≤ 1 →
        exec .refill s = .next { s with
          rd := 0, wr := 0, occ := 0, consumed := 0, blkIdx := s.startBlock, playing := false, stopped := true
          result := true }) ∧
      (s.total ≠ 0#32 → s.total.toNat ≤ s.consumed.toNat → 2 ≤ s.occ.toNat →
        exec .refill s = .next { s with result := true }))

/-- STG_READ_RESP (R68). All 512 bytes of the block are stored, those of a tail beyond the committed ones too: the model's choice
between R68 and row 3 of 93, log 11. The stored bytes stand at the addresses of the offsets `(WR + k) mod C`, every other byte of both
memories is left, and the rest of the state is as the rule says; on a failure those 512 bytes become unspecified. A ring of
capacity 0 has no byte to store to (log 8). -/
def Obligations.ReadResponseRule : Prop :=
  (∀ (status : Byte) (data : Vector Byte 512), decode (.stg (.read status data)) = .ok (.stgReadResp status data)) ∧
  ∀ (s : State) (status : Byte) (data : Vector Byte 512),
    (s.pendKind ≠ .read → exec (.stgReadResp status data) s = .next s) ∧
    (s.pendKind = .read → status = 0#8 → s.cap ≠ 0#16 →
      ∃ t, exec (.stgReadResp status data) s = .next t ∧
        { t with ram := s.ram, ext := s.ext } = { s with
          busy := false, pendKind := .none, result := true
          wr := BitVec.ofNat 16 ((s.wr.toNat + min 512 (s.total - s.consumed).toNat) % s.cap.toNat)
          occ := s.occ + BitVec.ofNat 16 (min 512 (s.total - s.consumed).toNat)
          consumed := s.consumed + BitVec.ofNat 32 (min 512 (s.total - s.consumed).toNat) } ∧
        (if s.bufCustom then t.ram = s.ram else t.ext = s.ext) ∧
        (∀ a, (∀ k, k < 512 → s.bufKey ((s.wr.toNat + k) % s.cap.toNat) ≠ a) →
          Memory.get? t.bufMem a = Memory.get? s.bufMem a) ∧
        (512 ≤ s.cap.toNat → s.bufWraps = false → ∀ (k : Nat) (h : k < 512),
          Memory.get? t.bufMem (s.bufKey ((s.wr.toNat + k) % s.cap.toNat)) = some data[k])) ∧
    (s.pendKind = .read → status ≠ 0#8 →
      ∃ t, exec (.stgReadResp status data) s = .next t ∧
        { t with ram := s.ram, ext := s.ext } = { s with
          busy := false, pendKind := .none, result := false, errClass := 4, errCode := status
          rd := 0, wr := 0, occ := 0, consumed := 0, blkIdx := s.startBlock, playing := false, stopped := true } ∧
        (if s.bufCustom then t.ram = s.ram else t.ext = s.ext) ∧
        (∀ a, (∀ k, k < 512 → s.bufKey ((s.wr.toNat + k) % s.cap.toNat) ≠ a) →
          Memory.get? t.bufMem a = Memory.get? s.bufMem a) ∧
        (∀ k, k < 512 → Memory.get? t.bufMem (s.bufKey ((s.wr.toNat + k) % s.cap.toNat)) = none))

/-! ### The control commands -/

/-- A CMD write while `BUSY = 1` is ignored completely, whatever its word (R51): no element of R17 changes and nothing is sent. -/
def Obligations.BusyIgnoresEveryCommandWord : Prop :=
  ∀ (s : State) (w : Word), s.busy = true → ∃ i, decode (commandWrite w) = .ok i ∧ exec i s = .next s

/-- STOP (R72), with every field it leaves alone; STOP twice gives the state of STOP once. -/
def Obligations.StopRule : Prop :=
  decode (commandWrite 0x00000008#32) = .ok .stop ∧
  (∀ s : State, s.busy = true → exec .stop s = .next s) ∧
  (∀ s : State, s.busy = false → exec .stop s = .next { s with
    rd := 0, wr := 0, occ := 0, consumed := 0, blkIdx := s.startBlock, playing := false, stopped := true
    result := true }) ∧
  (∀ s s' : State, exec .stop s = .next s' → exec .stop s' = .next s')

/-- Stop is synchronous (R42, R72, R112): however many ticks follow a STOP, they change nothing and send nothing. -/
def Obligations.TicksAfterStopDoNothing : Prop :=
  ∀ (n : Nat) (s t t' : State), s.busy = false → exec .stop s = .next t → Ticks n t t' → t' = t

/-- PLAY (R73), with every field it leaves alone: from Paused it resumes, from Playing it stops first. -/
def Obligations.PlayRule : Prop :=
  decode (commandWrite 0x00000006#32) = .ok .play ∧
  ∀ s : State,
    (s.busy = true → exec .play s = .next s) ∧
    (s.busy = false → s.initDone = false →
      exec .play s = .next { s with errClass := 1, errCode := 0x03, result := false }) ∧
    (s.busy = false → s.initDone = true → s.total = 0#32 →
      exec .play s = .next { s with errClass := 1, errCode := 0x04, result := false }) ∧
    (s.busy = false → s.initDone = true → s.total ≠ 0#32 → s.playing = false →
      exec .play s = .next { s with playing := true, stopped := false, tickEn := true, result := true }) ∧
    (s.busy = false → s.initDone = true → s.total ≠ 0#32 → s.playing = true →
      exec .play s = .next { s with
        rd := 0, wr := 0, occ := 0, consumed := 0, blkIdx := s.startBlock
        playing := true, stopped := false, tickEn := true, result := true })

/-- PAUSE (R74), with every field it leaves alone. -/
def Obligations.PauseRule : Prop :=
  decode (commandWrite 0x00000007#32) = .ok .pause ∧
  ∀ s : State,
    (s.busy = true → exec .pause s = .next s) ∧
    (s.busy = false → s.stopped = false → exec .pause s = .next { s with playing := !s.playing, result := true }) ∧
    (s.busy = false → s.stopped = true → exec .pause s = .next { s with result := true })

/-- A pause is transparent (R74, R62): however many ticks arrive between two PAUSEs, resuming finds the ring, the phase and
everything else as the first PAUSE found them. -/
def Obligations.PauseResumeRestoresPlayback : Prop :=
  ∀ (n : Nat) (s t t' : State), s.busy = false → s.stopped = false → s.playing = true →
    exec .pause s = .next t → Ticks n t t' → exec .pause t' = .next { s with result := true }

/-- SELECT_FILE (R75), with every field it leaves alone. -/
def Obligations.SelectFileRule : Prop :=
  decode (commandWrite 0x00000005#32) = .ok .selectFile ∧
  ∀ s : State,
    (s.busy = true → exec .selectFile s = .next s) ∧
    (s.busy = false → s.initDone = false →
      exec .selectFile s = .next { s with errClass := 1, errCode := 0x03, result := false }) ∧
    (s.busy = false → s.initDone = true →
      exec .selectFile s = .next { s with
        rd := 0, wr := 0, occ := 0, consumed := 0, blkIdx := s.startBlock, playing := false, stopped := true
        total := 0, outs := s.outs ++ [.stgLookup s.arg0], busy := true, pendKind := .lookup })

/-- STG_LOOKUP_RESP (R76), with every field it leaves alone. -/
def Obligations.LookupResponseRule : Prop :=
  (∀ (status : Byte) (start length : Word),
    decode (.stg (.lookup status start length)) = .ok (.stgLookupResp status start length)) ∧
  ∀ (s : State) (status : Byte) (start length : Word),
    (s.pendKind ≠ .lookup → exec (.stgLookupResp status start length) s = .next s) ∧
    (s.pendKind = .lookup → status ≠ 0#8 →
      exec (.stgLookupResp status start length) s = .next { s with
        busy := false, pendKind := .none, errClass := 3, errCode := status, result := false }) ∧
    (s.pendKind = .lookup → status = 0#8 →
      exec (.stgLookupResp status start length) s = .next { s with
        busy := false, pendKind := .none, startBlock := start, total := length, consumed := 0, blkIdx := start
        result := true })

/-- INIT (R77), with every field it leaves alone: the checks in their order, the choice of the buffer, and the deinitialization
that comes first on an initialized block. -/
def Obligations.InitRule : Prop :=
  (∀ mode : Byte, decode (commandWrite (0#16 ++ mode ++ 0x01#8)) = .ok (.init mode)) ∧
  ∀ (s : State) (mode : Byte),
    (s.busy = true → exec (.init mode) s = .next s) ∧
    (s.busy = false → mode.extractLsb' 3 5 ≠ 0#5 →
      exec (.init mode) s = .next { s with errClass := 1, errCode := 0x05, result := false }) ∧
    (s.busy = false → mode.extractLsb' 3 5 = 0#5 → s.customLen = 0#16 → s.cfg.internalBufBytes = 0 →
      exec (.init mode) s = .next { s with errClass := 1, errCode := 0x01, result := false }) ∧
    (s.busy = false → mode.extractLsb' 3 5 = 0#5 → s.customLen = 0#16 → 0 < s.cfg.internalBufBytes →
      s.cfg.internalBufBytes < 1024 →
      exec (.init mode) s = .next { s with errClass := 1, errCode := 0x02, result := false }) ∧
    (∀ (cap : Count) (custom : Bool) (base : Word), s.busy = false → mode.extractLsb' 3 5 = 0#5 →
      (s.customLen ≠ 0#16 ∧ cap = s.customLen ∧ custom = true ∧ base = s.customBase ∨
       s.customLen = 0#16 ∧ 1024 ≤ s.cfg.internalBufBytes ∧
         cap = BitVec.ofNat 16 (min (s.cfg.internalBufBytes - s.cfg.internalBufBytes % 512) 65024) ∧
         custom = false ∧ base = 0#32) →
      (s.initDone = false →
        exec (.init mode) s = .next { s with
          pendMode := mode, pendCap := cap, pendCustom := custom, pendBase := base
          outs := s.outs ++ [.stgInit s.csId], busy := true, pendKind := .init }) ∧
      (s.initDone = true →
        exec (.init mode) s = .next { s with
          rd := 0, wr := 0, occ := 0, consumed := 0, blkIdx := 0, playing := false, stopped := true
          initDone := false, tickEn := false, total := 0, startBlock := 0
          cap := 0, bufCustom := false, bufBase := 0
          halfRate := false, stereo := false, bridge := false, alt := false
          pendMode := mode, pendCap := cap, pendCustom := custom, pendBase := base
          outs := s.outs ++ [.stgInit s.csId], busy := true, pendKind := .init }))

/-- STG_INIT_RESP (R78, and R30 for the buffer's contents), with every field it leaves alone: after a success the buffer's `C`
bytes are unspecified and every other byte of both memories is left. What the model's own `bufForeign` becomes is said by
`Obligations.ForeignWriteLastsUntilRelease`. -/
def Obligations.InitResponseRule : Prop :=
  (∀ status : Byte, decode (.stg (.init status)) = .ok (.stgInitResp status)) ∧
  ∀ (s : State) (status : Byte),
    (s.pendKind ≠ .init → exec (.stgInitResp status) s = .next s) ∧
    (s.pendKind = .init → status ≠ 0#8 →
      exec (.stgInitResp status) s = .next { s with
        busy := false, pendKind := .none, errClass := 2, errCode := status, result := false }) ∧
    (s.pendKind = .init → status = 0#8 →
      ∃ t, exec (.stgInitResp status) s = .next t ∧
        { t with ram := s.ram, ext := s.ext, bufForeign := s.bufForeign } = { s with
          busy := false, pendKind := .none
          cap := s.pendCap, bufCustom := s.pendCustom, bufBase := s.pendBase
          halfRate := s.pendMode.getLsbD 0, stereo := s.pendMode.getLsbD 1, bridge := s.pendMode.getLsbD 2
          alt := false, startBlock := 0, total := 0
          rd := 0, wr := 0, occ := 0, consumed := 0, blkIdx := 0, playing := false, stopped := true
          initDone := true, result := true } ∧
        (if s.pendCustom then t.ram = s.ram else t.ext = s.ext) ∧
        (∀ off, off < s.pendCap.toNat → t.ringByte off = none) ∧
        (∀ a, (∀ off, off < s.pendCap.toNat → t.bufKey off ≠ a) →
          Memory.get? t.ram a = Memory.get? s.ram a ∧ Memory.get? t.ext a = Memory.get? s.ext a))

/-- DEINIT (R79), with every field it leaves alone. -/
def Obligations.DeinitRule : Prop :=
  decode (commandWrite 0x00000002#32) = .ok .deinit ∧
  ∀ s : State,
    (s.busy = true → exec .deinit s = .next s) ∧
    (s.busy = false → exec .deinit s = .next { s with
      rd := 0, wr := 0, occ := 0, consumed := 0, blkIdx := 0, playing := false, stopped := true
      initDone := false, tickEn := false, total := 0, startBlock := 0
      cap := 0, bufCustom := false, bufBase := 0
      halfRate := false, stereo := false, bridge := false, alt := false
      result := true })

/-- SET_BUFFER (R80), with every field it leaves alone. -/
def Obligations.SetBufferRule : Prop :=
  decode (commandWrite 0x00000003#32) = .ok .setBuffer ∧
  ∀ s : State,
    (s.busy = true → exec .setBuffer s = .next s) ∧
    (s.busy = false → s.arg1 = 0#32 →
      exec .setBuffer s = .next { s with errClass := 1, errCode := 0x01, result := false }) ∧
    (s.busy = false → s.arg1 ≠ 0#32 → s.arg1.toNat < 1024 →
      exec .setBuffer s = .next { s with errClass := 1, errCode := 0x02, result := false }) ∧
    (s.busy = false → 1024 ≤ s.arg1.toNat →
      exec .setBuffer s = .next { s with
        customBase := BitVec.ofNat 32 (s.arg0.toNat % 2 ^ s.cfg.addrW.val)
        customLen := BitVec.ofNat 16 (min (s.arg1.toNat - s.arg1.toNat % 512) 65024)
        result := true })

/-- SET_CS (R81), with every field it leaves alone. -/
def Obligations.SetCsRule : Prop :=
  (∀ id : Byte, decode (commandWrite (0#16 ++ id ++ 0x04#8)) = .ok (.setCs id)) ∧
  ∀ (s : State) (id : Byte),
    (s.busy = true → exec (.setCs id) s = .next s) ∧
    (s.busy = false → exec (.setCs id) s = .next { s with csId := id, result := true })

/-- An illegal command word (R50): ERR_BAD_CMD and no other effect. -/
def Obligations.IllegalCommandRule : Prop :=
  ∀ (s : State) (w : Word),
    (s.busy = true → exec (.illegal w) s = .next s) ∧
    (s.busy = false → exec (.illegal w) s = .next { s with errClass := 1, errCode := 0x06, result := false }) ∧
    (legalCommandWord w = false → decode (commandWrite w) = .ok (.illegal w))

/-- The state graph (R71): the playback state after every instruction. No other event changes it, a TICK in particular. -/
def Obligations.PlaybackStateGraph : Prop :=
  ∀ (i : Instr) (s s' : State), Inv s → exec i s = .next s' →
    s'.playState = match i with
      | .init mode =>
        if s.busy = false ∧ mode.extractLsb' 3 5 = 0#5 ∧ (s.customLen ≠ 0#16 ∨ 1024 ≤ s.cfg.internalBufBytes)
        then .uninitialized else s.playState
      | .deinit => if s.busy then s.playState else .uninitialized
      | .play =>
        if s.busy then s.playState
        else if s.playState = .uninitialized then .uninitialized
        else if s.total = 0#32 then s.playState else .playing
      | .pause =>
        if s.busy then s.playState
        else match s.playState with
          | .playing => .paused
          | .paused => .playing
          | .stopped => .stopped
          | .uninitialized => .uninitialized
      | .stop | .selectFile =>
        if s.busy then s.playState
        else if s.playState = .uninitialized then .uninitialized else .stopped
      | .refill =>
        if s.busy = false ∧ s.total ≠ 0#32 ∧ s.total.toNat ≤ s.consumed.toNat ∧ s.occ.toNat ≤ 1
        then .stopped else s.playState
      | .stgInitResp status => if s.pendKind = .init ∧ status = 0#8 then .stopped else s.playState
      | .stgReadResp status _ => if s.pendKind = .read ∧ status ≠ 0#8 then .stopped else s.playState
      | .setBuffer | .setCs _ | .illegal _ | .rdCmd | .rdArg0 | .rdArg1 | .rdStatus | .rdUnderrun | .rdLasterr
      | .rdMode | .rdCapacity | .rdOccupied | .rdRdPtr | .rdWrPtr | .rdStartBlock | .rdTotalBytes | .rdBytesConsumed
      | .rdBlockIndex | .rdCsId | .rdCustomBase | .rdCustomLen | .rdUnmapped _ | .wrArg0 _ | .wrArg1 _
      | .wrIgnored _ _ | .tick | .stgLookupResp _ _ _ => s.playState

/-- Who writes what (R17's column "written by", R18, R66): an instruction that changes an element is one of its writers. It has a
clause for every element of R17. An INIT of an initialized block writes what DEINIT writes (R77), and what Stop writes is written by
the instructions of `mayStop`; REFILL writes to memory in that storage may write what it reserves (R21). -/
def Obligations.ElementsChangeOnlyByTheirWriters : Prop :=
  ∀ (i : Instr) (s s' : State), exec i s = .next s' →
    (s'.playing ≠ s.playing → mayStop i = true ∨ i = .pause) ∧
    (s'.stopped ≠ s.stopped → mayStop i = true) ∧
    (s'.underrun ≠ s.underrun → i = .tick ∨ i = .rdUnderrun) ∧
    ((s'.busy, s'.pendKind) ≠ (s.busy, s.pendKind) →
      (∃ m, i = .init m) ∨ i = .selectFile ∨ i = .refill ∨ isStorageResponse i = true) ∧
    (s'.result ≠ s.result → isCommand i = true ∨ isStorageResponse i = true) ∧
    ((s'.errClass, s'.errCode) ≠ (s.errClass, s.errCode) →
      i = .rdLasterr ∨ (∃ m, i = .init m) ∨ i = .setBuffer ∨ i = .selectFile ∨ i = .play ∨ (∃ w, i = .illegal w) ∨
      isStorageResponse i = true) ∧
    (s'.rd ≠ s.rd → i = .tick ∨ mayStop i = true) ∧
    (s'.wr ≠ s.wr → mayStop i = true) ∧
    (s'.occ ≠ s.occ → i = .tick ∨ mayStop i = true) ∧
    ((s'.consumed, s'.blkIdx) ≠ (s.consumed, s.blkIdx) →
      mayStop i = true ∨ ∃ st start length, i = .stgLookupResp st start length) ∧
    (s'.tickEn ≠ s.tickEn → i = .play ∨ i = .deinit ∨ ∃ m, i = .init m) ∧
    ((s'.halfRate, s'.stereo, s'.bridge) ≠ (s.halfRate, s.stereo, s.bridge) →
      i = .deinit ∨ (∃ m, i = .init m) ∨ ∃ st, i = .stgInitResp st) ∧
    (s'.alt ≠ s.alt → i = .tick ∨ i = .deinit ∨ (∃ m, i = .init m) ∨ ∃ st, i = .stgInitResp st) ∧
    ((s'.cap, s'.bufCustom, s'.bufBase, s'.initDone) ≠ (s.cap, s.bufCustom, s.bufBase, s.initDone) →
      i = .deinit ∨ (∃ m, i = .init m) ∨ ∃ st, i = .stgInitResp st) ∧
    ((s'.startBlock, s'.total) ≠ (s.startBlock, s.total) →
      i = .selectFile ∨ i = .deinit ∨ (∃ m, i = .init m) ∨ (∃ st, i = .stgInitResp st) ∨
      ∃ st start length, i = .stgLookupResp st start length) ∧
    (s'.csId ≠ s.csId → ∃ id, i = .setCs id) ∧
    ((s'.customBase, s'.customLen) ≠ (s.customBase, s.customLen) → i = .setBuffer) ∧
    (s'.arg0 ≠ s.arg0 → ∃ d, i = .wrArg0 d) ∧
    (s'.arg1 ≠ s.arg1 → ∃ d, i = .wrArg1 d) ∧
    ((s'.pendMode, s'.pendCap, s'.pendCustom, s'.pendBase) ≠ (s.pendMode, s.pendCap, s.pendCustom, s.pendBase) →
      ∃ m, i = .init m) ∧
    ((s'.ram, s'.ext) ≠ (s.ram, s.ext) →
      i = .refill ∨ (∃ st, i = .stgInitResp st) ∨ ∃ st data, i = .stgReadResp st data)

/-- ARG0 and ARG1 are read at the CMD write of SELECT_FILE or SET_BUFFER and by their own CSR reads, and nowhere else (R44, R47,
R108): whatever else runs, a response to a pending request in particular, does the same whatever the two hold. -/
def Obligations.ArgumentsAreReadOnlyByTheirCommands : Prop :=
  ∀ (i : Instr) (s s' : State) (a0 a1 : Word), i ∉ [Instr.selectFile, .setBuffer, .rdArg0, .rdArg1] →
    (∀ d, i ≠ .wrArg0 d ∧ i ≠ .wrArg1 d) → exec i s = .next s' →
    exec i { s with arg0 := a0, arg1 := a1 } = .next { s' with arg0 := a0, arg1 := a1 }

/-! ### Errors -/

/-- What can become of LASTERR (R90, R91): it stays, a read clears it, or a failure writes it with `RESULT` = 0, with a class and
a code of the table and by the instruction the table names. Classes 5 to 7 are never recorded. -/
def Obligations.LasterrRecordsOnlyTheListedErrors : Prop :=
  ∀ (i : Instr) (s s' : State), exec i s = .next s' →
    (s'.errClass = s.errClass ∧ s'.errCode = s.errCode) ∨
    (i = .rdLasterr ∧ s'.errClass = 0#3 ∧ s'.errCode = 0#8) ∨
    (s'.result = false ∧
      ((s'.errClass = 1#3 ∧
          (s'.errCode = 0x01#8 ∧ (i = .setBuffer ∨ ∃ m, i = .init m) ∨
           s'.errCode = 0x02#8 ∧ (i = .setBuffer ∨ ∃ m, i = .init m) ∨
           s'.errCode = 0x03#8 ∧ (i = .play ∨ i = .selectFile) ∨
           s'.errCode = 0x04#8 ∧ i = .play ∨
           s'.errCode = 0x05#8 ∧ (∃ m, i = .init m) ∨
           s'.errCode = 0x06#8 ∧ ∃ w, i = .illegal w)) ∨
       (s'.errClass = 2#3 ∧ s'.errCode ≠ 0#8 ∧ i = .stgInitResp s'.errCode) ∨
       (s'.errClass = 3#3 ∧ s'.errCode ≠ 0#8 ∧ ∃ start length, i = .stgLookupResp s'.errCode start length) ∨
       (s'.errClass = 4#3 ∧ s'.errCode ≠ 0#8 ∧ ∃ data, i = .stgReadResp s'.errCode data)))

/-- A storage response whose kind is not the pending one is ignored: no state changes and no error is recorded (R96). -/
def Obligations.UnmatchedResponsesAreIgnored : Prop :=
  ∀ (s : State) (r : StgResp) (rest : List Arrival), delivery s.inputs = .port (.stg r) rest →
    (match r with
      | .init _ => s.pendKind ≠ .init
      | .lookup _ _ _ => s.pendKind ≠ .lookup
      | .read _ _ => s.pendKind ≠ .read) →
    step s = .next { s with inputs := rest, draws := s.draws + 1 }

/-! ### Queries and register accesses -/

/-- Read STATUS (R82, R23), with every field left alone. -/
def Obligations.ReadStatusRule : Prop :=
  (∀ be, decode (.csr (.read 0x0C#8 be)) = .ok .rdStatus) ∧
  ∀ s : State, exec .rdStatus s = .next { s with outs := s.outs ++ [.csrData (Lanes.ofWord (
    0#20 ++ (match s.pendKind with | .none => 0#2 | .init => 1#2 | .lookup => 2#2 | .read => 3#2) ++
    BitVec.ofBool s.bufCustom ++ BitVec.ofBool s.alt ++ BitVec.ofBool (decide (s.total ≠ 0#32)) ++
    BitVec.ofBool s.tickEn ++ BitVec.ofBool s.result ++ BitVec.ofBool s.busy ++ BitVec.ofBool s.initDone ++
    BitVec.ofBool (s.initDone && !s.playing && !s.stopped) ++ BitVec.ofBool s.stopped ++
    BitVec.ofBool s.playing))] }

/-- Read UNDERRUN (R83, R24): it returns the flag and clears it, and leaves every other field alone. -/
def Obligations.ReadUnderrunRule : Prop :=
  (∀ be, decode (.csr (.read 0x10#8 be)) = .ok .rdUnderrun) ∧
  ∀ s : State, exec .rdUnderrun s = .next { s with
    underrun := false
    outs := s.outs ++ [.csrData (Lanes.ofWord (if s.underrun then 1#32 else 0#32))] }

/-- Read LASTERR (R84, R25): it returns `{21'b0, LASTERR_CLASS, LASTERR_CODE}` and clears both, and leaves every other field
alone. -/
def Obligations.ReadLasterrRule : Prop :=
  (∀ be, decode (.csr (.read 0x14#8 be)) = .ok .rdLasterr) ∧
  ∀ s : State, exec .rdLasterr s = .next { s with
    errClass := 0, errCode := 0
    outs := s.outs ++ [.csrData (Lanes.ofWord (0#21 ++ s.errClass ++ s.errCode))] }

/-- Read a plain register (R85, R22): each returns its field zero-extended to 32 bits and leaves every other field alone. -/
def Obligations.ReadPlainRegisterRule : Prop :=
  ∀ (be : BitVec 4) (s : State),
    (∀ (off : BitVec 8) (i : Instr) (v : Word),
      (off, i, v) ∈ [(0x04#8, .rdArg0, s.arg0), (0x08#8, .rdArg1, s.arg1),
        (0x18#8, .rdMode, 0#29 ++ BitVec.ofBool s.bridge ++ BitVec.ofBool s.stereo ++ BitVec.ofBool s.halfRate),
        (0x1C#8, .rdCapacity, s.cap.setWidth 32), (0x20#8, .rdOccupied, s.occ.setWidth 32),
        (0x24#8, .rdRdPtr, s.rd.setWidth 32), (0x28#8, .rdWrPtr, s.wr.setWidth 32),
        (0x2C#8, .rdStartBlock, s.startBlock), (0x30#8, .rdTotalBytes, s.total),
        (0x34#8, .rdBytesConsumed, s.consumed), (0x38#8, .rdBlockIndex, s.blkIdx),
        (0x3C#8, .rdCsId, s.csId.setWidth 32), (0x40#8, .rdCustomBase, s.customBase),
        (0x44#8, .rdCustomLen, s.customLen.setWidth 32)] →
      decode (.csr (.read off be)) = .ok i ∧
      exec i s = .next { s with outs := s.outs ++ [.csrData (Lanes.ofWord v)] })

/-- Read CMD or an unmapped offset (R86): 0x00000000, and every field left alone. -/
def Obligations.ReadCmdAndUnmappedRule : Prop :=
  ∀ (be : BitVec 4) (s : State),
    decode (.csr (.read 0x00#8 be)) = .ok .rdCmd ∧
    exec .rdCmd s = .next { s with outs := s.outs ++ [.csrData (Lanes.ofWord 0#32)] } ∧
    (∀ off : BitVec 8, 0x48 ≤ off.toNat → decode (.csr (.read off be)) = .ok (.rdUnmapped (off.extractLsb' 2 6))) ∧
    (∀ sel : BitVec 6, exec (.rdUnmapped sel) s = .next { s with outs := s.outs ++ [.csrData (Lanes.ofWord 0#32)] })

/-- Write ARG0 or ARG1 (R87): the word is stored, whatever `BUSY` is, and every other field is left alone. -/
def Obligations.WriteArgumentRule : Prop :=
  ∀ (s : State) (d : Word),
    decode (registerWrite 0x04#8 d) = .ok (.wrArg0 d) ∧ exec (.wrArg0 d) s = .next { s with arg0 := d } ∧
    decode (registerWrite 0x08#8 d) = .ok (.wrArg1 d) ∧ exec (.wrArg1 d) s = .next { s with arg1 := d }

/-- Write a read-only, read-to-clear or unmapped offset (R88): no state change. -/
def Obligations.IgnoredWriteRule : Prop :=
  (∀ (off : BitVec 8) (d : Word), 0x0C ≤ off.toNat →
    decode (registerWrite off d) = .ok (.wrIgnored (off.extractLsb' 2 6) d)) ∧
  ∀ (s : State) (sel : BitVec 6) (d : Word), exec (.wrIgnored sel d) s = .next s

/-- "The host cannot read or write BufMem through the block" (R28), nor does any rule read it but the tick's: two states that
differ only in what the memories hold go on alike, and a tick can make only the values of its duty writes differ: every other
event sent is the same, and the duty writes go to the same channels in the same places. -/
def Obligations.BufferContentsReachOnlyTheDutyPort : Prop :=
  (∀ (i : Instr) (s t s' : State), i ≠ .tick → SameButMemory s t → exec i s = .next s' →
    ∃ t', exec i t = .next t' ∧ SameButMemory s' t') ∧
  (∀ s t s' : State, SameButMemory s t → exec .tick s = .next s' →
    ∃ t', exec .tick t = .next t' ∧ SameButMemoryAndOutputs s' t' ∧
      t'.outs.map Output.shape = s'.outs.map Output.shape)

/-! ### Another agent and the custom buffer -/

/-- Another agent's read of external memory (R97, R113; the form, and that a read has R97's effect though R43 and 93 row 4 name writes
only, are the model's choice, log 6): nothing that the block holds changes, no byte of either memory does, and the read is
remembered exactly if the byte belongs to the block. -/
def Obligations.ForeignReadRule : Prop :=
  ∀ (s : State) (addr : Word) (rest : List Arrival), delivery s.inputs = .foreignRead addr rest →
    ∃ t, step s = .next t ∧
      t = { s with inputs := rest, draws := s.draws + 1, bufForeign := t.bufForeign } ∧
      (t.bufForeign = true ↔ s.bufForeign = true ∨
        (s.initDone = true ∧ s.bufCustom = true ∧
          ∃ k, k < s.cap.toNat ∧ s.bufKey k = addr.toNat % 2 ^ s.cfg.addrW.val))

/-- Another agent's write to external memory (R43, R97; 93 row 4; the form is the model's choice, log 6): the byte written is no longer
known and every other byte is left, and the write is remembered exactly if the byte belongs to the block. The model's `bufForeign`
is what remembers it. -/
def Obligations.ForeignWriteRule : Prop :=
  ∀ (s : State) (addr : Word) (rest : List Arrival), delivery s.inputs = .foreignWrite addr rest →
    ∃ t, step s = .next t ∧
      t = { s with inputs := rest, draws := s.draws + 1, ext := t.ext, bufForeign := t.bufForeign } ∧
      (∀ a, Memory.get? t.ext a = if a = addr.toNat % 2 ^ s.cfg.addrW.val then none else Memory.get? s.ext a) ∧
      (t.bufForeign = true ↔ s.bufForeign = true ∨
        (s.initDone = true ∧ s.bufCustom = true ∧
          ∃ k, k < s.cap.toNat ∧ s.bufKey k = addr.toNat % 2 ^ s.cfg.addrW.val))

/-- Once another agent has accessed the block's custom buffer, that stays so, whatever storage writes over the byte, until the
buffer is the block's no longer: only reset and a completed INIT end it, and both do (R43, R97, R113; the model's choice, log 6). Between
a DEINIT and the next completed INIT no buffer is active, so that nothing is read. -/
def Obligations.ForeignWriteLastsUntilRelease : Prop :=
  (∀ s s' : State, step s = .next s' → s.bufForeign = true →
    s'.bufForeign = true ∨ (∃ rest, delivery s.inputs = .reset rest) ∨
    (s.pendKind = .init ∧ ∃ p rest, delivery s.inputs = .port p rest ∧ decode p = .ok (.stgInitResp 0))) ∧
  (∀ (s s' : State) (rest : List Arrival), delivery s.inputs = .reset rest → step s = .next s' → s'.bufForeign = false) ∧
  (∀ s s' : State, s.pendKind = .init → exec (.stgInitResp 0) s = .next s' → s'.bufForeign = false)

/-- While a custom buffer has been accessed by another agent, wraps, or overlaps other memory, each byte read from it is the free value of
its offset at this draw, whatever the memory holds (R35, R43, R97; 93 row 4); from any other buffer a byte that is known is read as it
is, and one that is not is a free value (R30). The forms of the three cases are the model's choice, log 6. -/
def Obligations.UnreliableBufferReadsAsAnyValue : Prop :=
  ∀ (s : State) (off : Nat),
    (s.bufCustom = true →
      (s.bufForeign = true ∨ 2 ^ s.cfg.addrW.val < s.bufBase.toNat + s.cap.toNat ∨
        (∃ r ∈ s.cfg.otherMemory, r.1 < s.bufBase.toNat + s.cap.toNat ∧ s.bufBase.toNat < r.1 + r.2)) →
      s.memRead off = Config.freeByte s.draws off) ∧
    ((s.bufCustom = false ∨ s.bufForeign = false ∧ s.bufBase.toNat + s.cap.toNat ≤ 2 ^ s.cfg.addrW.val ∧
        ∀ r ∈ s.cfg.otherMemory, s.bufBase.toNat + s.cap.toNat ≤ r.1 ∨ r.1 + r.2 ≤ s.bufBase.toNat) →
      (∀ b, s.ringByte off = some b → s.memRead off = b) ∧
      (s.ringByte off = none → s.memRead off = Config.freeByte s.draws off))

/-- Storage may write the bytes it owes at any time (R21): a REFILL that asks for a block leaves none of the 512 reserved bytes
known, and in every state of the invariant in which a read is pending each of them is any value and none is occupied, so that no
tick sends one. That they are any value from the request on is the model's form of R21's "at any time", log 5. -/
def Obligations.ReservedBytesBelongToStorage : Prop :=
  (∀ s s' : State, exec .refill s = .next s' → s.busy = false → s'.busy = true → ∀ k, k < 512 →
    s'.ringByte (s'.ringOff s'.wr k) = none) ∧
  ∀ s : State, Inv s → s.pendKind = .read → ∀ k, k < 512 →
    s.memRead (s.ringOff s.wr k) = Config.freeByte s.draws (s.ringOff s.wr k) ∧
    ∀ i, i < s.occ.toNat → s.ringOff s.rd i ≠ s.ringOff s.wr k

/-! ### Reset -/

/-- The state after reset (R104, R17): what every register reads, the playback state, the outputs, and that no byte of internal
RAM is known. -/
def Obligations.ResetValues : Prop :=
  ∀ (s : State) (rest : List Arrival), delivery s.inputs = .reset rest →
    ∃ t, step s = .next t ∧
      exec .rdStatus t = .next { t with outs := t.outs ++ [.csrData (Lanes.ofWord 0x00000022#32)] } ∧
      (∀ i ∈ [Instr.rdUnderrun, .rdLasterr, .rdMode, .rdCapacity, .rdOccupied, .rdRdPtr, .rdWrPtr, .rdStartBlock,
          .rdTotalBytes, .rdBytesConsumed, .rdBlockIndex, .rdCsId, .rdCustomBase, .rdCustomLen, .rdArg0, .rdArg1],
        exec i t = .next { t with outs := t.outs ++ [.csrData (Lanes.ofWord 0#32)] }) ∧
      t.playState = .uninitialized ∧ t.tickEn = false ∧ t.outs = s.outs ∧ t.ram = []

/-- What a reset in the middle of a run leaves, whole: every element of R17 at its reset value, and what is not the block's as it
was (the model's choice, log 9): the parameters, the external memory, what is still to arrive and what was sent. -/
def Obligations.ResetLeavesOnlyWhatIsOutsideTheBlock : Prop :=
  ∀ (s : State) (rest : List Arrival), delivery s.inputs = .reset rest →
    step s = .next { State.reset with
      cfg := s.cfg, ext := s.ext, draws := s.draws + 1, inputs := rest, outs := s.outs }

/-- A storage request outstanding when reset is applied is abandoned (R105): a response that arrives next is ignored. -/
def Obligations.ResetAbandonsTheOutstandingRequest : Prop :=
  ∀ (s t : State) (rest rest' : List Arrival) (r : StgResp), delivery s.inputs = .reset rest → step s = .next t →
    delivery rest = .port (.stg r) rest' →
    t.busy = false ∧ t.pendKind = .none ∧ step t = .next { t with inputs := rest', draws := t.draws + 1 }

/-! ### Invariants -/

/-- The invariant holds after reset, for every value of the parameters and whatever is to arrive. -/
def Obligations.ResetMeetsInvariant : Prop :=
  ∀ (cfg : Params) (inputs : List Arrival), Inv { State.reset with cfg := cfg, inputs := inputs }

/-- Every step keeps the invariant: R20's twelve items, what a pending request promises, and the canonical form of the
memories. -/
def Obligations.StepKeepsInvariant : Prop := ∀ s s' : State, Inv s → step s = .next s' → Inv s'

/-- Every reachable state satisfies the invariants of R20, for every value of the parameters and whatever arrives. -/
def Obligations.ReachableStatesMeetR20 : Prop := ∀ s : State, Reachable s → SpecInv s

/-- From a state of the invariant, whatever arrives next, the machine goes on: no event stops the block (R89, R94). -/
def Obligations.InvariantStatesNeverStop : Prop := ∀ s : State, Inv s → Goes s

/-- Unspecified contents are never observable (R30): every step keeps every occupied byte of an internal ring known. -/
def Obligations.OccupiedBytesStayKnown : Prop :=
  ∀ s s' : State, Inv s → OccupiedKnown s → step s = .next s' → OccupiedKnown s'

/-- TICK and STG_READ_RESP stop where the ring has no byte, and nothing else stops: a tick that must output, or a block that must be
stored, while `C` = 0 (R9: `0 ≤ off < C`; the model's choice, log 8). -/
def Obligations.RinglessAccessStops : Prop :=
  (∀ s : State, s.playing = true → (s.halfRate = true → s.alt = false) → (if s.stereo then 2 else 1) ≤ s.occ.toNat →
    s.cap = 0#16 → exec .tick s = .fault .ringUnmapped) ∧
  (∀ (s : State) (data : Vector Byte 512), s.pendKind = .read → s.cap = 0#16 →
    exec (.stgReadResp 0 data) s = .fault .ringUnmapped) ∧
  (∀ (i : Instr) (s : State), (∃ s', exec i s = .next s') ∨
    (s.cap = 0#16 ∧ exec i s = .fault .ringUnmapped ∧
      (i = .tick ∧ s.playing = true ∧ (s.halfRate = true → s.alt = false) ∧
          (if s.stereo then 2 else 1) ≤ s.occ.toNat ∨
        ∃ data, i = .stgReadResp 0 data ∧ s.pendKind = .read)))
end

