-- ==== Sys2Proof/Laws/Encoding.lean ====
section
/-! SUPPORT. The laws of the byte lanes, the command word's fields and the CSR offset's fields. -/

namespace Sys2Proof

@[simp] theorem Lanes.toWord_ofWord (w : Word) : (Lanes.ofWord w).toWord = w := by
  simp only [Lanes.toWord, Lanes.ofWord]
  apply BitVec.eq_of_getLsbD_eq
  intro i hi
  simp only [BitVec.getLsbD_append, BitVec.getLsbD_extractLsb']
  split_ifs <;> first
    | omega
    | (rw [decide_eq_true (by omega), Bool.true_and]; congr 1; omega)

@[simp] theorem Lanes.ofWord_toWord (l : Lanes) : Lanes.ofWord l.toWord = l := by
  obtain ⟨a, b, c, d⟩ := l
  simp only [Lanes.toWord, Lanes.ofWord, Lanes.mk.injEq]
  refine ⟨?_, ?_, ?_, ?_⟩ <;>
  · apply BitVec.eq_of_getLsbD_eq
    intro i hi
    simp only [BitVec.getLsbD_append, BitVec.getLsbD_extractLsb']
    split_ifs <;> first | omega | (simp only [hi, decide_true, Bool.true_and]; congr 1; omega)

@[simp] theorem cmdOp_cmdWord (imm8 op : BitVec 8) : cmdOp (cmdWord imm8 op) = op := by
  simp only [cmdOp, cmdWord]
  apply BitVec.eq_of_getLsbD_eq
  intro i hi
  simp only [BitVec.getLsbD_append, BitVec.getLsbD_extractLsb']
  split_ifs <;> first | omega | (simp only [hi, decide_true, Bool.true_and]; congr 1; omega)

@[simp] theorem cmdImm8_cmdWord (imm8 op : BitVec 8) : cmdImm8 (cmdWord imm8 op) = imm8 := by
  simp only [cmdImm8, cmdWord]
  apply BitVec.eq_of_getLsbD_eq
  intro i hi
  simp only [BitVec.getLsbD_append, BitVec.getLsbD_extractLsb']
  split_ifs <;> first | omega | (simp only [hi, decide_true, Bool.true_and]; congr 1; omega)

@[simp] theorem cmdRsv_cmdWord (imm8 op : BitVec 8) : cmdRsv (cmdWord imm8 op) = 0#16 := by
  simp only [cmdRsv, cmdWord]
  apply BitVec.eq_of_getLsbD_eq
  intro i hi
  simp only [BitVec.getLsbD_append, BitVec.getLsbD_extractLsb']
  split_ifs <;> first | omega | (simp only [hi, decide_true, Bool.true_and]; congr 1; omega)

@[simp] theorem csrSelect_csrOffset (sel : BitVec 6) : csrSelect (csrOffset sel) = sel := by
  simp only [csrSelect, csrOffset]
  apply BitVec.eq_of_getLsbD_eq
  intro i hi
  simp only [BitVec.getLsbD_append, BitVec.getLsbD_extractLsb']
  split_ifs <;> first | omega | (simp only [hi, decide_true, Bool.true_and]; congr 1; omega)

/-- A full write is decoded by its register and its word alone. -/
@[simp] theorem decode_fullWrite (sel : BitVec 6) (w : Word) :
    decode (fullWrite sel w) = .ok (decodeWrite (csrOffset sel) w) := by
  simp [decode, fullWrite]

/-- A read is decoded by its register alone. -/
@[simp] theorem decode_fullRead (sel : BitVec 6) : decode (fullRead sel) = .ok (decodeRead (csrOffset sel)) := rfl

/-- A partial write is no instruction, whatever its offset and data (R32). -/
theorem decode_partialWrite (off : BitVec 8) {enables : BitVec 4} (data : Lanes) (h : enables ≠ 0xF#4) :
    decode (.csr (.write off enables data)) = .error .partialWrite := by
  simp [decode, h]

end Sys2Proof
end

