-- ==== Sys2Proof/Laws/State.lean ====
section
/-! SUPPORT. Each field of State after each update: what the update writes, and that it leaves every other field. -/

namespace Sys2Proof.Machine

variable (s : State)

/-! ### setBufMem -/

@[simp] theorem State.setBufMem_initDone (m : Memory) : (s.setBufMem m).initDone = s.initDone := rfl
@[simp] theorem State.setBufMem_playing (m : Memory) : (s.setBufMem m).playing = s.playing := rfl
@[simp] theorem State.setBufMem_stopped (m : Memory) : (s.setBufMem m).stopped = s.stopped := rfl
@[simp] theorem State.setBufMem_underrun (m : Memory) : (s.setBufMem m).underrun = s.underrun := rfl
@[simp] theorem State.setBufMem_halfRate (m : Memory) : (s.setBufMem m).halfRate = s.halfRate := rfl
@[simp] theorem State.setBufMem_alt (m : Memory) : (s.setBufMem m).alt = s.alt := rfl
@[simp] theorem State.setBufMem_stereo (m : Memory) : (s.setBufMem m).stereo = s.stereo := rfl
@[simp] theorem State.setBufMem_bridge (m : Memory) : (s.setBufMem m).bridge = s.bridge := rfl
@[simp] theorem State.setBufMem_tickEn (m : Memory) : (s.setBufMem m).tickEn = s.tickEn := rfl
@[simp] theorem State.setBufMem_busy (m : Memory) : (s.setBufMem m).busy = s.busy := rfl
@[simp] theorem State.setBufMem_pendKind (m : Memory) : (s.setBufMem m).pendKind = s.pendKind := rfl
@[simp] theorem State.setBufMem_pendMode (m : Memory) : (s.setBufMem m).pendMode = s.pendMode := rfl
@[simp] theorem State.setBufMem_pendCap (m : Memory) : (s.setBufMem m).pendCap = s.pendCap := rfl
@[simp] theorem State.setBufMem_pendCustom (m : Memory) : (s.setBufMem m).pendCustom = s.pendCustom := rfl
@[simp] theorem State.setBufMem_pendBase (m : Memory) : (s.setBufMem m).pendBase = s.pendBase := rfl
@[simp] theorem State.setBufMem_result (m : Memory) : (s.setBufMem m).result = s.result := rfl
@[simp] theorem State.setBufMem_errClass (m : Memory) : (s.setBufMem m).errClass = s.errClass := rfl
@[simp] theorem State.setBufMem_errCode (m : Memory) : (s.setBufMem m).errCode = s.errCode := rfl
@[simp] theorem State.setBufMem_cap (m : Memory) : (s.setBufMem m).cap = s.cap := rfl
@[simp] theorem State.setBufMem_bufCustom (m : Memory) : (s.setBufMem m).bufCustom = s.bufCustom := rfl
@[simp] theorem State.setBufMem_bufBase (m : Memory) : (s.setBufMem m).bufBase = s.bufBase := rfl
@[simp] theorem State.setBufMem_rd (m : Memory) : (s.setBufMem m).rd = s.rd := rfl
@[simp] theorem State.setBufMem_wr (m : Memory) : (s.setBufMem m).wr = s.wr := rfl
@[simp] theorem State.setBufMem_occ (m : Memory) : (s.setBufMem m).occ = s.occ := rfl
@[simp] theorem State.setBufMem_startBlock (m : Memory) : (s.setBufMem m).startBlock = s.startBlock := rfl
@[simp] theorem State.setBufMem_total (m : Memory) : (s.setBufMem m).total = s.total := rfl
@[simp] theorem State.setBufMem_consumed (m : Memory) : (s.setBufMem m).consumed = s.consumed := rfl
@[simp] theorem State.setBufMem_blkIdx (m : Memory) : (s.setBufMem m).blkIdx = s.blkIdx := rfl
@[simp] theorem State.setBufMem_csId (m : Memory) : (s.setBufMem m).csId = s.csId := rfl
@[simp] theorem State.setBufMem_customBase (m : Memory) : (s.setBufMem m).customBase = s.customBase := rfl
@[simp] theorem State.setBufMem_customLen (m : Memory) : (s.setBufMem m).customLen = s.customLen := rfl
@[simp] theorem State.setBufMem_arg0 (m : Memory) : (s.setBufMem m).arg0 = s.arg0 := rfl
@[simp] theorem State.setBufMem_arg1 (m : Memory) : (s.setBufMem m).arg1 = s.arg1 := rfl
@[simp] theorem State.setBufMem_ram (m : Memory) : (s.setBufMem m).ram = if s.bufCustom then s.ram else m := rfl
@[simp] theorem State.setBufMem_ext (m : Memory) : (s.setBufMem m).ext = if s.bufCustom then m else s.ext := rfl
@[simp] theorem State.setBufMem_bufForeign (m : Memory) : (s.setBufMem m).bufForeign = s.bufForeign := rfl
@[simp] theorem State.setBufMem_cfg (m : Memory) : (s.setBufMem m).cfg = s.cfg := rfl
@[simp] theorem State.setBufMem_draws (m : Memory) : (s.setBufMem m).draws = s.draws := rfl
@[simp] theorem State.setBufMem_inputs (m : Memory) : (s.setBufMem m).inputs = s.inputs := rfl
@[simp] theorem State.setBufMem_outs (m : Memory) : (s.setBufMem m).outs = s.outs := rfl

/-! ### writeRegion -/

@[simp] theorem State.writeRegion_initDone (base : Count) (data : List Byte) : (s.writeRegion base data).initDone = s.initDone := rfl
@[simp] theorem State.writeRegion_playing (base : Count) (data : List Byte) : (s.writeRegion base data).playing = s.playing := rfl
@[simp] theorem State.writeRegion_stopped (base : Count) (data : List Byte) : (s.writeRegion base data).stopped = s.stopped := rfl
@[simp] theorem State.writeRegion_underrun (base : Count) (data : List Byte) : (s.writeRegion base data).underrun = s.underrun := rfl
@[simp] theorem State.writeRegion_halfRate (base : Count) (data : List Byte) : (s.writeRegion base data).halfRate = s.halfRate := rfl
@[simp] theorem State.writeRegion_alt (base : Count) (data : List Byte) : (s.writeRegion base data).alt = s.alt := rfl
@[simp] theorem State.writeRegion_stereo (base : Count) (data : List Byte) : (s.writeRegion base data).stereo = s.stereo := rfl
@[simp] theorem State.writeRegion_bridge (base : Count) (data : List Byte) : (s.writeRegion base data).bridge = s.bridge := rfl
@[simp] theorem State.writeRegion_tickEn (base : Count) (data : List Byte) : (s.writeRegion base data).tickEn = s.tickEn := rfl
@[simp] theorem State.writeRegion_busy (base : Count) (data : List Byte) : (s.writeRegion base data).busy = s.busy := rfl
@[simp] theorem State.writeRegion_pendKind (base : Count) (data : List Byte) : (s.writeRegion base data).pendKind = s.pendKind := rfl
@[simp] theorem State.writeRegion_pendMode (base : Count) (data : List Byte) : (s.writeRegion base data).pendMode = s.pendMode := rfl
@[simp] theorem State.writeRegion_pendCap (base : Count) (data : List Byte) : (s.writeRegion base data).pendCap = s.pendCap := rfl
@[simp] theorem State.writeRegion_pendCustom (base : Count) (data : List Byte) : (s.writeRegion base data).pendCustom = s.pendCustom := rfl
@[simp] theorem State.writeRegion_pendBase (base : Count) (data : List Byte) : (s.writeRegion base data).pendBase = s.pendBase := rfl
@[simp] theorem State.writeRegion_result (base : Count) (data : List Byte) : (s.writeRegion base data).result = s.result := rfl
@[simp] theorem State.writeRegion_errClass (base : Count) (data : List Byte) : (s.writeRegion base data).errClass = s.errClass := rfl
@[simp] theorem State.writeRegion_errCode (base : Count) (data : List Byte) : (s.writeRegion base data).errCode = s.errCode := rfl
@[simp] theorem State.writeRegion_cap (base : Count) (data : List Byte) : (s.writeRegion base data).cap = s.cap := rfl
@[simp] theorem State.writeRegion_bufCustom (base : Count) (data : List Byte) : (s.writeRegion base data).bufCustom = s.bufCustom := rfl
@[simp] theorem State.writeRegion_bufBase (base : Count) (data : List Byte) : (s.writeRegion base data).bufBase = s.bufBase := rfl
@[simp] theorem State.writeRegion_rd (base : Count) (data : List Byte) : (s.writeRegion base data).rd = s.rd := rfl
@[simp] theorem State.writeRegion_wr (base : Count) (data : List Byte) : (s.writeRegion base data).wr = s.wr := rfl
@[simp] theorem State.writeRegion_occ (base : Count) (data : List Byte) : (s.writeRegion base data).occ = s.occ := rfl
@[simp] theorem State.writeRegion_startBlock (base : Count) (data : List Byte) : (s.writeRegion base data).startBlock = s.startBlock := rfl
@[simp] theorem State.writeRegion_total (base : Count) (data : List Byte) : (s.writeRegion base data).total = s.total := rfl
@[simp] theorem State.writeRegion_consumed (base : Count) (data : List Byte) : (s.writeRegion base data).consumed = s.consumed := rfl
@[simp] theorem State.writeRegion_blkIdx (base : Count) (data : List Byte) : (s.writeRegion base data).blkIdx = s.blkIdx := rfl
@[simp] theorem State.writeRegion_csId (base : Count) (data : List Byte) : (s.writeRegion base data).csId = s.csId := rfl
@[simp] theorem State.writeRegion_customBase (base : Count) (data : List Byte) : (s.writeRegion base data).customBase = s.customBase := rfl
@[simp] theorem State.writeRegion_customLen (base : Count) (data : List Byte) : (s.writeRegion base data).customLen = s.customLen := rfl
@[simp] theorem State.writeRegion_arg0 (base : Count) (data : List Byte) : (s.writeRegion base data).arg0 = s.arg0 := rfl
@[simp] theorem State.writeRegion_arg1 (base : Count) (data : List Byte) : (s.writeRegion base data).arg1 = s.arg1 := rfl
@[simp] theorem State.writeRegion_bufForeign (base : Count) (data : List Byte) : (s.writeRegion base data).bufForeign = s.bufForeign := rfl
@[simp] theorem State.writeRegion_cfg (base : Count) (data : List Byte) : (s.writeRegion base data).cfg = s.cfg := rfl
@[simp] theorem State.writeRegion_draws (base : Count) (data : List Byte) : (s.writeRegion base data).draws = s.draws := rfl
@[simp] theorem State.writeRegion_inputs (base : Count) (data : List Byte) : (s.writeRegion base data).inputs = s.inputs := rfl
@[simp] theorem State.writeRegion_outs (base : Count) (data : List Byte) : (s.writeRegion base data).outs = s.outs := rfl

/-! ### forgetRegion -/

@[simp] theorem State.forgetRegion_initDone (base : Count) (n : Nat) : (s.forgetRegion base n).initDone = s.initDone := rfl
@[simp] theorem State.forgetRegion_playing (base : Count) (n : Nat) : (s.forgetRegion base n).playing = s.playing := rfl
@[simp] theorem State.forgetRegion_stopped (base : Count) (n : Nat) : (s.forgetRegion base n).stopped = s.stopped := rfl
@[simp] theorem State.forgetRegion_underrun (base : Count) (n : Nat) : (s.forgetRegion base n).underrun = s.underrun := rfl
@[simp] theorem State.forgetRegion_halfRate (base : Count) (n : Nat) : (s.forgetRegion base n).halfRate = s.halfRate := rfl
@[simp] theorem State.forgetRegion_alt (base : Count) (n : Nat) : (s.forgetRegion base n).alt = s.alt := rfl
@[simp] theorem State.forgetRegion_stereo (base : Count) (n : Nat) : (s.forgetRegion base n).stereo = s.stereo := rfl
@[simp] theorem State.forgetRegion_bridge (base : Count) (n : Nat) : (s.forgetRegion base n).bridge = s.bridge := rfl
@[simp] theorem State.forgetRegion_tickEn (base : Count) (n : Nat) : (s.forgetRegion base n).tickEn = s.tickEn := rfl
@[simp] theorem State.forgetRegion_busy (base : Count) (n : Nat) : (s.forgetRegion base n).busy = s.busy := rfl
@[simp] theorem State.forgetRegion_pendKind (base : Count) (n : Nat) : (s.forgetRegion base n).pendKind = s.pendKind := rfl
@[simp] theorem State.forgetRegion_pendMode (base : Count) (n : Nat) : (s.forgetRegion base n).pendMode = s.pendMode := rfl
@[simp] theorem State.forgetRegion_pendCap (base : Count) (n : Nat) : (s.forgetRegion base n).pendCap = s.pendCap := rfl
@[simp] theorem State.forgetRegion_pendCustom (base : Count) (n : Nat) : (s.forgetRegion base n).pendCustom = s.pendCustom := rfl
@[simp] theorem State.forgetRegion_pendBase (base : Count) (n : Nat) : (s.forgetRegion base n).pendBase = s.pendBase := rfl
@[simp] theorem State.forgetRegion_result (base : Count) (n : Nat) : (s.forgetRegion base n).result = s.result := rfl
@[simp] theorem State.forgetRegion_errClass (base : Count) (n : Nat) : (s.forgetRegion base n).errClass = s.errClass := rfl
@[simp] theorem State.forgetRegion_errCode (base : Count) (n : Nat) : (s.forgetRegion base n).errCode = s.errCode := rfl
@[simp] theorem State.forgetRegion_cap (base : Count) (n : Nat) : (s.forgetRegion base n).cap = s.cap := rfl
@[simp] theorem State.forgetRegion_bufCustom (base : Count) (n : Nat) : (s.forgetRegion base n).bufCustom = s.bufCustom := rfl
@[simp] theorem State.forgetRegion_bufBase (base : Count) (n : Nat) : (s.forgetRegion base n).bufBase = s.bufBase := rfl
@[simp] theorem State.forgetRegion_rd (base : Count) (n : Nat) : (s.forgetRegion base n).rd = s.rd := rfl
@[simp] theorem State.forgetRegion_wr (base : Count) (n : Nat) : (s.forgetRegion base n).wr = s.wr := rfl
@[simp] theorem State.forgetRegion_occ (base : Count) (n : Nat) : (s.forgetRegion base n).occ = s.occ := rfl
@[simp] theorem State.forgetRegion_startBlock (base : Count) (n : Nat) : (s.forgetRegion base n).startBlock = s.startBlock := rfl
@[simp] theorem State.forgetRegion_total (base : Count) (n : Nat) : (s.forgetRegion base n).total = s.total := rfl
@[simp] theorem State.forgetRegion_consumed (base : Count) (n : Nat) : (s.forgetRegion base n).consumed = s.consumed := rfl
@[simp] theorem State.forgetRegion_blkIdx (base : Count) (n : Nat) : (s.forgetRegion base n).blkIdx = s.blkIdx := rfl
@[simp] theorem State.forgetRegion_csId (base : Count) (n : Nat) : (s.forgetRegion base n).csId = s.csId := rfl
@[simp] theorem State.forgetRegion_customBase (base : Count) (n : Nat) : (s.forgetRegion base n).customBase = s.customBase := rfl
@[simp] theorem State.forgetRegion_customLen (base : Count) (n : Nat) : (s.forgetRegion base n).customLen = s.customLen := rfl
@[simp] theorem State.forgetRegion_arg0 (base : Count) (n : Nat) : (s.forgetRegion base n).arg0 = s.arg0 := rfl
@[simp] theorem State.forgetRegion_arg1 (base : Count) (n : Nat) : (s.forgetRegion base n).arg1 = s.arg1 := rfl
@[simp] theorem State.forgetRegion_bufForeign (base : Count) (n : Nat) : (s.forgetRegion base n).bufForeign = s.bufForeign := rfl
@[simp] theorem State.forgetRegion_cfg (base : Count) (n : Nat) : (s.forgetRegion base n).cfg = s.cfg := rfl
@[simp] theorem State.forgetRegion_draws (base : Count) (n : Nat) : (s.forgetRegion base n).draws = s.draws := rfl
@[simp] theorem State.forgetRegion_inputs (base : Count) (n : Nat) : (s.forgetRegion base n).inputs = s.inputs := rfl
@[simp] theorem State.forgetRegion_outs (base : Count) (n : Nat) : (s.forgetRegion base n).outs = s.outs := rfl

/-! ### answer -/

@[simp] theorem State.answer_initDone (v : Word) : (s.answer v).initDone = s.initDone := rfl
@[simp] theorem State.answer_playing (v : Word) : (s.answer v).playing = s.playing := rfl
@[simp] theorem State.answer_stopped (v : Word) : (s.answer v).stopped = s.stopped := rfl
@[simp] theorem State.answer_underrun (v : Word) : (s.answer v).underrun = s.underrun := rfl
@[simp] theorem State.answer_halfRate (v : Word) : (s.answer v).halfRate = s.halfRate := rfl
@[simp] theorem State.answer_alt (v : Word) : (s.answer v).alt = s.alt := rfl
@[simp] theorem State.answer_stereo (v : Word) : (s.answer v).stereo = s.stereo := rfl
@[simp] theorem State.answer_bridge (v : Word) : (s.answer v).bridge = s.bridge := rfl
@[simp] theorem State.answer_tickEn (v : Word) : (s.answer v).tickEn = s.tickEn := rfl
@[simp] theorem State.answer_busy (v : Word) : (s.answer v).busy = s.busy := rfl
@[simp] theorem State.answer_pendKind (v : Word) : (s.answer v).pendKind = s.pendKind := rfl
@[simp] theorem State.answer_pendMode (v : Word) : (s.answer v).pendMode = s.pendMode := rfl
@[simp] theorem State.answer_pendCap (v : Word) : (s.answer v).pendCap = s.pendCap := rfl
@[simp] theorem State.answer_pendCustom (v : Word) : (s.answer v).pendCustom = s.pendCustom := rfl
@[simp] theorem State.answer_pendBase (v : Word) : (s.answer v).pendBase = s.pendBase := rfl
@[simp] theorem State.answer_result (v : Word) : (s.answer v).result = s.result := rfl
@[simp] theorem State.answer_errClass (v : Word) : (s.answer v).errClass = s.errClass := rfl
@[simp] theorem State.answer_errCode (v : Word) : (s.answer v).errCode = s.errCode := rfl
@[simp] theorem State.answer_cap (v : Word) : (s.answer v).cap = s.cap := rfl
@[simp] theorem State.answer_bufCustom (v : Word) : (s.answer v).bufCustom = s.bufCustom := rfl
@[simp] theorem State.answer_bufBase (v : Word) : (s.answer v).bufBase = s.bufBase := rfl
@[simp] theorem State.answer_rd (v : Word) : (s.answer v).rd = s.rd := rfl
@[simp] theorem State.answer_wr (v : Word) : (s.answer v).wr = s.wr := rfl
@[simp] theorem State.answer_occ (v : Word) : (s.answer v).occ = s.occ := rfl
@[simp] theorem State.answer_startBlock (v : Word) : (s.answer v).startBlock = s.startBlock := rfl
@[simp] theorem State.answer_total (v : Word) : (s.answer v).total = s.total := rfl
@[simp] theorem State.answer_consumed (v : Word) : (s.answer v).consumed = s.consumed := rfl
@[simp] theorem State.answer_blkIdx (v : Word) : (s.answer v).blkIdx = s.blkIdx := rfl
@[simp] theorem State.answer_csId (v : Word) : (s.answer v).csId = s.csId := rfl
@[simp] theorem State.answer_customBase (v : Word) : (s.answer v).customBase = s.customBase := rfl
@[simp] theorem State.answer_customLen (v : Word) : (s.answer v).customLen = s.customLen := rfl
@[simp] theorem State.answer_arg0 (v : Word) : (s.answer v).arg0 = s.arg0 := rfl
@[simp] theorem State.answer_arg1 (v : Word) : (s.answer v).arg1 = s.arg1 := rfl
@[simp] theorem State.answer_ram (v : Word) : (s.answer v).ram = s.ram := rfl
@[simp] theorem State.answer_ext (v : Word) : (s.answer v).ext = s.ext := rfl
@[simp] theorem State.answer_bufForeign (v : Word) : (s.answer v).bufForeign = s.bufForeign := rfl
@[simp] theorem State.answer_cfg (v : Word) : (s.answer v).cfg = s.cfg := rfl
@[simp] theorem State.answer_draws (v : Word) : (s.answer v).draws = s.draws := rfl
@[simp] theorem State.answer_inputs (v : Word) : (s.answer v).inputs = s.inputs := rfl
@[simp] theorem State.answer_outs (v : Word) : (s.answer v).outs = s.outs ++ [.csrData (Lanes.ofWord v)] := rfl

/-! ### emitAll -/

@[simp] theorem State.emitAll_initDone (os : List Output) : (s.emitAll os).initDone = s.initDone := rfl
@[simp] theorem State.emitAll_playing (os : List Output) : (s.emitAll os).playing = s.playing := rfl
@[simp] theorem State.emitAll_stopped (os : List Output) : (s.emitAll os).stopped = s.stopped := rfl
@[simp] theorem State.emitAll_underrun (os : List Output) : (s.emitAll os).underrun = s.underrun := rfl
@[simp] theorem State.emitAll_halfRate (os : List Output) : (s.emitAll os).halfRate = s.halfRate := rfl
@[simp] theorem State.emitAll_alt (os : List Output) : (s.emitAll os).alt = s.alt := rfl
@[simp] theorem State.emitAll_stereo (os : List Output) : (s.emitAll os).stereo = s.stereo := rfl
@[simp] theorem State.emitAll_bridge (os : List Output) : (s.emitAll os).bridge = s.bridge := rfl
@[simp] theorem State.emitAll_tickEn (os : List Output) : (s.emitAll os).tickEn = s.tickEn := rfl
@[simp] theorem State.emitAll_busy (os : List Output) : (s.emitAll os).busy = s.busy := rfl
@[simp] theorem State.emitAll_pendKind (os : List Output) : (s.emitAll os).pendKind = s.pendKind := rfl
@[simp] theorem State.emitAll_pendMode (os : List Output) : (s.emitAll os).pendMode = s.pendMode := rfl
@[simp] theorem State.emitAll_pendCap (os : List Output) : (s.emitAll os).pendCap = s.pendCap := rfl
@[simp] theorem State.emitAll_pendCustom (os : List Output) : (s.emitAll os).pendCustom = s.pendCustom := rfl
@[simp] theorem State.emitAll_pendBase (os : List Output) : (s.emitAll os).pendBase = s.pendBase := rfl
@[simp] theorem State.emitAll_result (os : List Output) : (s.emitAll os).result = s.result := rfl
@[simp] theorem State.emitAll_errClass (os : List Output) : (s.emitAll os).errClass = s.errClass := rfl
@[simp] theorem State.emitAll_errCode (os : List Output) : (s.emitAll os).errCode = s.errCode := rfl
@[simp] theorem State.emitAll_cap (os : List Output) : (s.emitAll os).cap = s.cap := rfl
@[simp] theorem State.emitAll_bufCustom (os : List Output) : (s.emitAll os).bufCustom = s.bufCustom := rfl
@[simp] theorem State.emitAll_bufBase (os : List Output) : (s.emitAll os).bufBase = s.bufBase := rfl
@[simp] theorem State.emitAll_rd (os : List Output) : (s.emitAll os).rd = s.rd := rfl
@[simp] theorem State.emitAll_wr (os : List Output) : (s.emitAll os).wr = s.wr := rfl
@[simp] theorem State.emitAll_occ (os : List Output) : (s.emitAll os).occ = s.occ := rfl
@[simp] theorem State.emitAll_startBlock (os : List Output) : (s.emitAll os).startBlock = s.startBlock := rfl
@[simp] theorem State.emitAll_total (os : List Output) : (s.emitAll os).total = s.total := rfl
@[simp] theorem State.emitAll_consumed (os : List Output) : (s.emitAll os).consumed = s.consumed := rfl
@[simp] theorem State.emitAll_blkIdx (os : List Output) : (s.emitAll os).blkIdx = s.blkIdx := rfl
@[simp] theorem State.emitAll_csId (os : List Output) : (s.emitAll os).csId = s.csId := rfl
@[simp] theorem State.emitAll_customBase (os : List Output) : (s.emitAll os).customBase = s.customBase := rfl
@[simp] theorem State.emitAll_customLen (os : List Output) : (s.emitAll os).customLen = s.customLen := rfl
@[simp] theorem State.emitAll_arg0 (os : List Output) : (s.emitAll os).arg0 = s.arg0 := rfl
@[simp] theorem State.emitAll_arg1 (os : List Output) : (s.emitAll os).arg1 = s.arg1 := rfl
@[simp] theorem State.emitAll_ram (os : List Output) : (s.emitAll os).ram = s.ram := rfl
@[simp] theorem State.emitAll_ext (os : List Output) : (s.emitAll os).ext = s.ext := rfl
@[simp] theorem State.emitAll_bufForeign (os : List Output) : (s.emitAll os).bufForeign = s.bufForeign := rfl
@[simp] theorem State.emitAll_cfg (os : List Output) : (s.emitAll os).cfg = s.cfg := rfl
@[simp] theorem State.emitAll_draws (os : List Output) : (s.emitAll os).draws = s.draws := rfl
@[simp] theorem State.emitAll_inputs (os : List Output) : (s.emitAll os).inputs = s.inputs := rfl
@[simp] theorem State.emitAll_outs (os : List Output) : (s.emitAll os).outs = s.outs ++ os := rfl

/-! ### emit -/

@[simp] theorem State.emit_initDone (o : Output) : (s.emit o).initDone = s.initDone := rfl
@[simp] theorem State.emit_playing (o : Output) : (s.emit o).playing = s.playing := rfl
@[simp] theorem State.emit_stopped (o : Output) : (s.emit o).stopped = s.stopped := rfl
@[simp] theorem State.emit_underrun (o : Output) : (s.emit o).underrun = s.underrun := rfl
@[simp] theorem State.emit_halfRate (o : Output) : (s.emit o).halfRate = s.halfRate := rfl
@[simp] theorem State.emit_alt (o : Output) : (s.emit o).alt = s.alt := rfl
@[simp] theorem State.emit_stereo (o : Output) : (s.emit o).stereo = s.stereo := rfl
@[simp] theorem State.emit_bridge (o : Output) : (s.emit o).bridge = s.bridge := rfl
@[simp] theorem State.emit_tickEn (o : Output) : (s.emit o).tickEn = s.tickEn := rfl
@[simp] theorem State.emit_busy (o : Output) : (s.emit o).busy = s.busy := rfl
@[simp] theorem State.emit_pendKind (o : Output) : (s.emit o).pendKind = s.pendKind := rfl
@[simp] theorem State.emit_pendMode (o : Output) : (s.emit o).pendMode = s.pendMode := rfl
@[simp] theorem State.emit_pendCap (o : Output) : (s.emit o).pendCap = s.pendCap := rfl
@[simp] theorem State.emit_pendCustom (o : Output) : (s.emit o).pendCustom = s.pendCustom := rfl
@[simp] theorem State.emit_pendBase (o : Output) : (s.emit o).pendBase = s.pendBase := rfl
@[simp] theorem State.emit_result (o : Output) : (s.emit o).result = s.result := rfl
@[simp] theorem State.emit_errClass (o : Output) : (s.emit o).errClass = s.errClass := rfl
@[simp] theorem State.emit_errCode (o : Output) : (s.emit o).errCode = s.errCode := rfl
@[simp] theorem State.emit_cap (o : Output) : (s.emit o).cap = s.cap := rfl
@[simp] theorem State.emit_bufCustom (o : Output) : (s.emit o).bufCustom = s.bufCustom := rfl
@[simp] theorem State.emit_bufBase (o : Output) : (s.emit o).bufBase = s.bufBase := rfl
@[simp] theorem State.emit_rd (o : Output) : (s.emit o).rd = s.rd := rfl
@[simp] theorem State.emit_wr (o : Output) : (s.emit o).wr = s.wr := rfl
@[simp] theorem State.emit_occ (o : Output) : (s.emit o).occ = s.occ := rfl
@[simp] theorem State.emit_startBlock (o : Output) : (s.emit o).startBlock = s.startBlock := rfl
@[simp] theorem State.emit_total (o : Output) : (s.emit o).total = s.total := rfl
@[simp] theorem State.emit_consumed (o : Output) : (s.emit o).consumed = s.consumed := rfl
@[simp] theorem State.emit_blkIdx (o : Output) : (s.emit o).blkIdx = s.blkIdx := rfl
@[simp] theorem State.emit_csId (o : Output) : (s.emit o).csId = s.csId := rfl
@[simp] theorem State.emit_customBase (o : Output) : (s.emit o).customBase = s.customBase := rfl
@[simp] theorem State.emit_customLen (o : Output) : (s.emit o).customLen = s.customLen := rfl
@[simp] theorem State.emit_arg0 (o : Output) : (s.emit o).arg0 = s.arg0 := rfl
@[simp] theorem State.emit_arg1 (o : Output) : (s.emit o).arg1 = s.arg1 := rfl
@[simp] theorem State.emit_ram (o : Output) : (s.emit o).ram = s.ram := rfl
@[simp] theorem State.emit_ext (o : Output) : (s.emit o).ext = s.ext := rfl
@[simp] theorem State.emit_bufForeign (o : Output) : (s.emit o).bufForeign = s.bufForeign := rfl
@[simp] theorem State.emit_cfg (o : Output) : (s.emit o).cfg = s.cfg := rfl
@[simp] theorem State.emit_draws (o : Output) : (s.emit o).draws = s.draws := rfl
@[simp] theorem State.emit_inputs (o : Output) : (s.emit o).inputs = s.inputs := rfl
@[simp] theorem State.emit_outs (o : Output) : (s.emit o).outs = s.outs ++ [o] := rfl

/-! ### succeed -/

@[simp] theorem State.succeed_initDone : (s.succeed).initDone = s.initDone := rfl
@[simp] theorem State.succeed_playing : (s.succeed).playing = s.playing := rfl
@[simp] theorem State.succeed_stopped : (s.succeed).stopped = s.stopped := rfl
@[simp] theorem State.succeed_underrun : (s.succeed).underrun = s.underrun := rfl
@[simp] theorem State.succeed_halfRate : (s.succeed).halfRate = s.halfRate := rfl
@[simp] theorem State.succeed_alt : (s.succeed).alt = s.alt := rfl
@[simp] theorem State.succeed_stereo : (s.succeed).stereo = s.stereo := rfl
@[simp] theorem State.succeed_bridge : (s.succeed).bridge = s.bridge := rfl
@[simp] theorem State.succeed_tickEn : (s.succeed).tickEn = s.tickEn := rfl
@[simp] theorem State.succeed_busy : (s.succeed).busy = s.busy := rfl
@[simp] theorem State.succeed_pendKind : (s.succeed).pendKind = s.pendKind := rfl
@[simp] theorem State.succeed_pendMode : (s.succeed).pendMode = s.pendMode := rfl
@[simp] theorem State.succeed_pendCap : (s.succeed).pendCap = s.pendCap := rfl
@[simp] theorem State.succeed_pendCustom : (s.succeed).pendCustom = s.pendCustom := rfl
@[simp] theorem State.succeed_pendBase : (s.succeed).pendBase = s.pendBase := rfl
@[simp] theorem State.succeed_result : (s.succeed).result = true := rfl
@[simp] theorem State.succeed_errClass : (s.succeed).errClass = s.errClass := rfl
@[simp] theorem State.succeed_errCode : (s.succeed).errCode = s.errCode := rfl
@[simp] theorem State.succeed_cap : (s.succeed).cap = s.cap := rfl
@[simp] theorem State.succeed_bufCustom : (s.succeed).bufCustom = s.bufCustom := rfl
@[simp] theorem State.succeed_bufBase : (s.succeed).bufBase = s.bufBase := rfl
@[simp] theorem State.succeed_rd : (s.succeed).rd = s.rd := rfl
@[simp] theorem State.succeed_wr : (s.succeed).wr = s.wr := rfl
@[simp] theorem State.succeed_occ : (s.succeed).occ = s.occ := rfl
@[simp] theorem State.succeed_startBlock : (s.succeed).startBlock = s.startBlock := rfl
@[simp] theorem State.succeed_total : (s.succeed).total = s.total := rfl
@[simp] theorem State.succeed_consumed : (s.succeed).consumed = s.consumed := rfl
@[simp] theorem State.succeed_blkIdx : (s.succeed).blkIdx = s.blkIdx := rfl
@[simp] theorem State.succeed_csId : (s.succeed).csId = s.csId := rfl
@[simp] theorem State.succeed_customBase : (s.succeed).customBase = s.customBase := rfl
@[simp] theorem State.succeed_customLen : (s.succeed).customLen = s.customLen := rfl
@[simp] theorem State.succeed_arg0 : (s.succeed).arg0 = s.arg0 := rfl
@[simp] theorem State.succeed_arg1 : (s.succeed).arg1 = s.arg1 := rfl
@[simp] theorem State.succeed_ram : (s.succeed).ram = s.ram := rfl
@[simp] theorem State.succeed_ext : (s.succeed).ext = s.ext := rfl
@[simp] theorem State.succeed_bufForeign : (s.succeed).bufForeign = s.bufForeign := rfl
@[simp] theorem State.succeed_cfg : (s.succeed).cfg = s.cfg := rfl
@[simp] theorem State.succeed_draws : (s.succeed).draws = s.draws := rfl
@[simp] theorem State.succeed_inputs : (s.succeed).inputs = s.inputs := rfl
@[simp] theorem State.succeed_outs : (s.succeed).outs = s.outs := rfl

/-! ### fail -/

@[simp] theorem State.fail_initDone (cls : BitVec 3) (code : Byte) : (s.fail cls code).initDone = s.initDone := rfl
@[simp] theorem State.fail_playing (cls : BitVec 3) (code : Byte) : (s.fail cls code).playing = s.playing := rfl
@[simp] theorem State.fail_stopped (cls : BitVec 3) (code : Byte) : (s.fail cls code).stopped = s.stopped := rfl
@[simp] theorem State.fail_underrun (cls : BitVec 3) (code : Byte) : (s.fail cls code).underrun = s.underrun := rfl
@[simp] theorem State.fail_halfRate (cls : BitVec 3) (code : Byte) : (s.fail cls code).halfRate = s.halfRate := rfl
@[simp] theorem State.fail_alt (cls : BitVec 3) (code : Byte) : (s.fail cls code).alt = s.alt := rfl
@[simp] theorem State.fail_stereo (cls : BitVec 3) (code : Byte) : (s.fail cls code).stereo = s.stereo := rfl
@[simp] theorem State.fail_bridge (cls : BitVec 3) (code : Byte) : (s.fail cls code).bridge = s.bridge := rfl
@[simp] theorem State.fail_tickEn (cls : BitVec 3) (code : Byte) : (s.fail cls code).tickEn = s.tickEn := rfl
@[simp] theorem State.fail_busy (cls : BitVec 3) (code : Byte) : (s.fail cls code).busy = s.busy := rfl
@[simp] theorem State.fail_pendKind (cls : BitVec 3) (code : Byte) : (s.fail cls code).pendKind = s.pendKind := rfl
@[simp] theorem State.fail_pendMode (cls : BitVec 3) (code : Byte) : (s.fail cls code).pendMode = s.pendMode := rfl
@[simp] theorem State.fail_pendCap (cls : BitVec 3) (code : Byte) : (s.fail cls code).pendCap = s.pendCap := rfl
@[simp] theorem State.fail_pendCustom (cls : BitVec 3) (code : Byte) : (s.fail cls code).pendCustom = s.pendCustom := rfl
@[simp] theorem State.fail_pendBase (cls : BitVec 3) (code : Byte) : (s.fail cls code).pendBase = s.pendBase := rfl
@[simp] theorem State.fail_result (cls : BitVec 3) (code : Byte) : (s.fail cls code).result = false := rfl
@[simp] theorem State.fail_errClass (cls : BitVec 3) (code : Byte) : (s.fail cls code).errClass = cls := rfl
@[simp] theorem State.fail_errCode (cls : BitVec 3) (code : Byte) : (s.fail cls code).errCode = code := rfl
@[simp] theorem State.fail_cap (cls : BitVec 3) (code : Byte) : (s.fail cls code).cap = s.cap := rfl
@[simp] theorem State.fail_bufCustom (cls : BitVec 3) (code : Byte) : (s.fail cls code).bufCustom = s.bufCustom := rfl
@[simp] theorem State.fail_bufBase (cls : BitVec 3) (code : Byte) : (s.fail cls code).bufBase = s.bufBase := rfl
@[simp] theorem State.fail_rd (cls : BitVec 3) (code : Byte) : (s.fail cls code).rd = s.rd := rfl
@[simp] theorem State.fail_wr (cls : BitVec 3) (code : Byte) : (s.fail cls code).wr = s.wr := rfl
@[simp] theorem State.fail_occ (cls : BitVec 3) (code : Byte) : (s.fail cls code).occ = s.occ := rfl
@[simp] theorem State.fail_startBlock (cls : BitVec 3) (code : Byte) : (s.fail cls code).startBlock = s.startBlock := rfl
@[simp] theorem State.fail_total (cls : BitVec 3) (code : Byte) : (s.fail cls code).total = s.total := rfl
@[simp] theorem State.fail_consumed (cls : BitVec 3) (code : Byte) : (s.fail cls code).consumed = s.consumed := rfl
@[simp] theorem State.fail_blkIdx (cls : BitVec 3) (code : Byte) : (s.fail cls code).blkIdx = s.blkIdx := rfl
@[simp] theorem State.fail_csId (cls : BitVec 3) (code : Byte) : (s.fail cls code).csId = s.csId := rfl
@[simp] theorem State.fail_customBase (cls : BitVec 3) (code : Byte) : (s.fail cls code).customBase = s.customBase := rfl
@[simp] theorem State.fail_customLen (cls : BitVec 3) (code : Byte) : (s.fail cls code).customLen = s.customLen := rfl
@[simp] theorem State.fail_arg0 (cls : BitVec 3) (code : Byte) : (s.fail cls code).arg0 = s.arg0 := rfl
@[simp] theorem State.fail_arg1 (cls : BitVec 3) (code : Byte) : (s.fail cls code).arg1 = s.arg1 := rfl
@[simp] theorem State.fail_ram (cls : BitVec 3) (code : Byte) : (s.fail cls code).ram = s.ram := rfl
@[simp] theorem State.fail_ext (cls : BitVec 3) (code : Byte) : (s.fail cls code).ext = s.ext := rfl
@[simp] theorem State.fail_bufForeign (cls : BitVec 3) (code : Byte) : (s.fail cls code).bufForeign = s.bufForeign := rfl
@[simp] theorem State.fail_cfg (cls : BitVec 3) (code : Byte) : (s.fail cls code).cfg = s.cfg := rfl
@[simp] theorem State.fail_draws (cls : BitVec 3) (code : Byte) : (s.fail cls code).draws = s.draws := rfl
@[simp] theorem State.fail_inputs (cls : BitVec 3) (code : Byte) : (s.fail cls code).inputs = s.inputs := rfl
@[simp] theorem State.fail_outs (cls : BitVec 3) (code : Byte) : (s.fail cls code).outs = s.outs := rfl

/-! ### clearLasterr -/

@[simp] theorem State.clearLasterr_initDone : (s.clearLasterr).initDone = s.initDone := rfl
@[simp] theorem State.clearLasterr_playing : (s.clearLasterr).playing = s.playing := rfl
@[simp] theorem State.clearLasterr_stopped : (s.clearLasterr).stopped = s.stopped := rfl
@[simp] theorem State.clearLasterr_underrun : (s.clearLasterr).underrun = s.underrun := rfl
@[simp] theorem State.clearLasterr_halfRate : (s.clearLasterr).halfRate = s.halfRate := rfl
@[simp] theorem State.clearLasterr_alt : (s.clearLasterr).alt = s.alt := rfl
@[simp] theorem State.clearLasterr_stereo : (s.clearLasterr).stereo = s.stereo := rfl
@[simp] theorem State.clearLasterr_bridge : (s.clearLasterr).bridge = s.bridge := rfl
@[simp] theorem State.clearLasterr_tickEn : (s.clearLasterr).tickEn = s.tickEn := rfl
@[simp] theorem State.clearLasterr_busy : (s.clearLasterr).busy = s.busy := rfl
@[simp] theorem State.clearLasterr_pendKind : (s.clearLasterr).pendKind = s.pendKind := rfl
@[simp] theorem State.clearLasterr_pendMode : (s.clearLasterr).pendMode = s.pendMode := rfl
@[simp] theorem State.clearLasterr_pendCap : (s.clearLasterr).pendCap = s.pendCap := rfl
@[simp] theorem State.clearLasterr_pendCustom : (s.clearLasterr).pendCustom = s.pendCustom := rfl
@[simp] theorem State.clearLasterr_pendBase : (s.clearLasterr).pendBase = s.pendBase := rfl
@[simp] theorem State.clearLasterr_result : (s.clearLasterr).result = s.result := rfl
@[simp] theorem State.clearLasterr_errClass : (s.clearLasterr).errClass = 0 := rfl
@[simp] theorem State.clearLasterr_errCode : (s.clearLasterr).errCode = 0 := rfl
@[simp] theorem State.clearLasterr_cap : (s.clearLasterr).cap = s.cap := rfl
@[simp] theorem State.clearLasterr_bufCustom : (s.clearLasterr).bufCustom = s.bufCustom := rfl
@[simp] theorem State.clearLasterr_bufBase : (s.clearLasterr).bufBase = s.bufBase := rfl
@[simp] theorem State.clearLasterr_rd : (s.clearLasterr).rd = s.rd := rfl
@[simp] theorem State.clearLasterr_wr : (s.clearLasterr).wr = s.wr := rfl
@[simp] theorem State.clearLasterr_occ : (s.clearLasterr).occ = s.occ := rfl
@[simp] theorem State.clearLasterr_startBlock : (s.clearLasterr).startBlock = s.startBlock := rfl
@[simp] theorem State.clearLasterr_total : (s.clearLasterr).total = s.total := rfl
@[simp] theorem State.clearLasterr_consumed : (s.clearLasterr).consumed = s.consumed := rfl
@[simp] theorem State.clearLasterr_blkIdx : (s.clearLasterr).blkIdx = s.blkIdx := rfl
@[simp] theorem State.clearLasterr_csId : (s.clearLasterr).csId = s.csId := rfl
@[simp] theorem State.clearLasterr_customBase : (s.clearLasterr).customBase = s.customBase := rfl
@[simp] theorem State.clearLasterr_customLen : (s.clearLasterr).customLen = s.customLen := rfl
@[simp] theorem State.clearLasterr_arg0 : (s.clearLasterr).arg0 = s.arg0 := rfl
@[simp] theorem State.clearLasterr_arg1 : (s.clearLasterr).arg1 = s.arg1 := rfl
@[simp] theorem State.clearLasterr_ram : (s.clearLasterr).ram = s.ram := rfl
@[simp] theorem State.clearLasterr_ext : (s.clearLasterr).ext = s.ext := rfl
@[simp] theorem State.clearLasterr_bufForeign : (s.clearLasterr).bufForeign = s.bufForeign := rfl
@[simp] theorem State.clearLasterr_cfg : (s.clearLasterr).cfg = s.cfg := rfl
@[simp] theorem State.clearLasterr_draws : (s.clearLasterr).draws = s.draws := rfl
@[simp] theorem State.clearLasterr_inputs : (s.clearLasterr).inputs = s.inputs := rfl
@[simp] theorem State.clearLasterr_outs : (s.clearLasterr).outs = s.outs := rfl

/-! ### pend -/

@[simp] theorem State.pend_initDone (k : PendKind) : (s.pend k).initDone = s.initDone := rfl
@[simp] theorem State.pend_playing (k : PendKind) : (s.pend k).playing = s.playing := rfl
@[simp] theorem State.pend_stopped (k : PendKind) : (s.pend k).stopped = s.stopped := rfl
@[simp] theorem State.pend_underrun (k : PendKind) : (s.pend k).underrun = s.underrun := rfl
@[simp] theorem State.pend_halfRate (k : PendKind) : (s.pend k).halfRate = s.halfRate := rfl
@[simp] theorem State.pend_alt (k : PendKind) : (s.pend k).alt = s.alt := rfl
@[simp] theorem State.pend_stereo (k : PendKind) : (s.pend k).stereo = s.stereo := rfl
@[simp] theorem State.pend_bridge (k : PendKind) : (s.pend k).bridge = s.bridge := rfl
@[simp] theorem State.pend_tickEn (k : PendKind) : (s.pend k).tickEn = s.tickEn := rfl
@[simp] theorem State.pend_busy (k : PendKind) : (s.pend k).busy = true := rfl
@[simp] theorem State.pend_pendKind (k : PendKind) : (s.pend k).pendKind = k := rfl
@[simp] theorem State.pend_pendMode (k : PendKind) : (s.pend k).pendMode = s.pendMode := rfl
@[simp] theorem State.pend_pendCap (k : PendKind) : (s.pend k).pendCap = s.pendCap := rfl
@[simp] theorem State.pend_pendCustom (k : PendKind) : (s.pend k).pendCustom = s.pendCustom := rfl
@[simp] theorem State.pend_pendBase (k : PendKind) : (s.pend k).pendBase = s.pendBase := rfl
@[simp] theorem State.pend_result (k : PendKind) : (s.pend k).result = s.result := rfl
@[simp] theorem State.pend_errClass (k : PendKind) : (s.pend k).errClass = s.errClass := rfl
@[simp] theorem State.pend_errCode (k : PendKind) : (s.pend k).errCode = s.errCode := rfl
@[simp] theorem State.pend_cap (k : PendKind) : (s.pend k).cap = s.cap := rfl
@[simp] theorem State.pend_bufCustom (k : PendKind) : (s.pend k).bufCustom = s.bufCustom := rfl
@[simp] theorem State.pend_bufBase (k : PendKind) : (s.pend k).bufBase = s.bufBase := rfl
@[simp] theorem State.pend_rd (k : PendKind) : (s.pend k).rd = s.rd := rfl
@[simp] theorem State.pend_wr (k : PendKind) : (s.pend k).wr = s.wr := rfl
@[simp] theorem State.pend_occ (k : PendKind) : (s.pend k).occ = s.occ := rfl
@[simp] theorem State.pend_startBlock (k : PendKind) : (s.pend k).startBlock = s.startBlock := rfl
@[simp] theorem State.pend_total (k : PendKind) : (s.pend k).total = s.total := rfl
@[simp] theorem State.pend_consumed (k : PendKind) : (s.pend k).consumed = s.consumed := rfl
@[simp] theorem State.pend_blkIdx (k : PendKind) : (s.pend k).blkIdx = s.blkIdx := rfl
@[simp] theorem State.pend_csId (k : PendKind) : (s.pend k).csId = s.csId := rfl
@[simp] theorem State.pend_customBase (k : PendKind) : (s.pend k).customBase = s.customBase := rfl
@[simp] theorem State.pend_customLen (k : PendKind) : (s.pend k).customLen = s.customLen := rfl
@[simp] theorem State.pend_arg0 (k : PendKind) : (s.pend k).arg0 = s.arg0 := rfl
@[simp] theorem State.pend_arg1 (k : PendKind) : (s.pend k).arg1 = s.arg1 := rfl
@[simp] theorem State.pend_ram (k : PendKind) : (s.pend k).ram = s.ram := rfl
@[simp] theorem State.pend_ext (k : PendKind) : (s.pend k).ext = s.ext := rfl
@[simp] theorem State.pend_bufForeign (k : PendKind) : (s.pend k).bufForeign = s.bufForeign := rfl
@[simp] theorem State.pend_cfg (k : PendKind) : (s.pend k).cfg = s.cfg := rfl
@[simp] theorem State.pend_draws (k : PendKind) : (s.pend k).draws = s.draws := rfl
@[simp] theorem State.pend_inputs (k : PendKind) : (s.pend k).inputs = s.inputs := rfl
@[simp] theorem State.pend_outs (k : PendKind) : (s.pend k).outs = s.outs := rfl

/-! ### unpend -/

@[simp] theorem State.unpend_initDone : (s.unpend).initDone = s.initDone := rfl
@[simp] theorem State.unpend_playing : (s.unpend).playing = s.playing := rfl
@[simp] theorem State.unpend_stopped : (s.unpend).stopped = s.stopped := rfl
@[simp] theorem State.unpend_underrun : (s.unpend).underrun = s.underrun := rfl
@[simp] theorem State.unpend_halfRate : (s.unpend).halfRate = s.halfRate := rfl
@[simp] theorem State.unpend_alt : (s.unpend).alt = s.alt := rfl
@[simp] theorem State.unpend_stereo : (s.unpend).stereo = s.stereo := rfl
@[simp] theorem State.unpend_bridge : (s.unpend).bridge = s.bridge := rfl
@[simp] theorem State.unpend_tickEn : (s.unpend).tickEn = s.tickEn := rfl
@[simp] theorem State.unpend_busy : (s.unpend).busy = false := rfl
@[simp] theorem State.unpend_pendKind : (s.unpend).pendKind = .none := rfl
@[simp] theorem State.unpend_pendMode : (s.unpend).pendMode = s.pendMode := rfl
@[simp] theorem State.unpend_pendCap : (s.unpend).pendCap = s.pendCap := rfl
@[simp] theorem State.unpend_pendCustom : (s.unpend).pendCustom = s.pendCustom := rfl
@[simp] theorem State.unpend_pendBase : (s.unpend).pendBase = s.pendBase := rfl
@[simp] theorem State.unpend_result : (s.unpend).result = s.result := rfl
@[simp] theorem State.unpend_errClass : (s.unpend).errClass = s.errClass := rfl
@[simp] theorem State.unpend_errCode : (s.unpend).errCode = s.errCode := rfl
@[simp] theorem State.unpend_cap : (s.unpend).cap = s.cap := rfl
@[simp] theorem State.unpend_bufCustom : (s.unpend).bufCustom = s.bufCustom := rfl
@[simp] theorem State.unpend_bufBase : (s.unpend).bufBase = s.bufBase := rfl
@[simp] theorem State.unpend_rd : (s.unpend).rd = s.rd := rfl
@[simp] theorem State.unpend_wr : (s.unpend).wr = s.wr := rfl
@[simp] theorem State.unpend_occ : (s.unpend).occ = s.occ := rfl
@[simp] theorem State.unpend_startBlock : (s.unpend).startBlock = s.startBlock := rfl
@[simp] theorem State.unpend_total : (s.unpend).total = s.total := rfl
@[simp] theorem State.unpend_consumed : (s.unpend).consumed = s.consumed := rfl
@[simp] theorem State.unpend_blkIdx : (s.unpend).blkIdx = s.blkIdx := rfl
@[simp] theorem State.unpend_csId : (s.unpend).csId = s.csId := rfl
@[simp] theorem State.unpend_customBase : (s.unpend).customBase = s.customBase := rfl
@[simp] theorem State.unpend_customLen : (s.unpend).customLen = s.customLen := rfl
@[simp] theorem State.unpend_arg0 : (s.unpend).arg0 = s.arg0 := rfl
@[simp] theorem State.unpend_arg1 : (s.unpend).arg1 = s.arg1 := rfl
@[simp] theorem State.unpend_ram : (s.unpend).ram = s.ram := rfl
@[simp] theorem State.unpend_ext : (s.unpend).ext = s.ext := rfl
@[simp] theorem State.unpend_bufForeign : (s.unpend).bufForeign = s.bufForeign := rfl
@[simp] theorem State.unpend_cfg : (s.unpend).cfg = s.cfg := rfl
@[simp] theorem State.unpend_draws : (s.unpend).draws = s.draws := rfl
@[simp] theorem State.unpend_inputs : (s.unpend).inputs = s.inputs := rfl
@[simp] theorem State.unpend_outs : (s.unpend).outs = s.outs := rfl

/-! ### commitProduce -/

@[simp] theorem State.commitProduce_initDone (m : Nat) : (s.commitProduce m).initDone = s.initDone := rfl
@[simp] theorem State.commitProduce_playing (m : Nat) : (s.commitProduce m).playing = s.playing := rfl
@[simp] theorem State.commitProduce_stopped (m : Nat) : (s.commitProduce m).stopped = s.stopped := rfl
@[simp] theorem State.commitProduce_underrun (m : Nat) : (s.commitProduce m).underrun = s.underrun := rfl
@[simp] theorem State.commitProduce_halfRate (m : Nat) : (s.commitProduce m).halfRate = s.halfRate := rfl
@[simp] theorem State.commitProduce_alt (m : Nat) : (s.commitProduce m).alt = s.alt := rfl
@[simp] theorem State.commitProduce_stereo (m : Nat) : (s.commitProduce m).stereo = s.stereo := rfl
@[simp] theorem State.commitProduce_bridge (m : Nat) : (s.commitProduce m).bridge = s.bridge := rfl
@[simp] theorem State.commitProduce_tickEn (m : Nat) : (s.commitProduce m).tickEn = s.tickEn := rfl
@[simp] theorem State.commitProduce_busy (m : Nat) : (s.commitProduce m).busy = s.busy := rfl
@[simp] theorem State.commitProduce_pendKind (m : Nat) : (s.commitProduce m).pendKind = s.pendKind := rfl
@[simp] theorem State.commitProduce_pendMode (m : Nat) : (s.commitProduce m).pendMode = s.pendMode := rfl
@[simp] theorem State.commitProduce_pendCap (m : Nat) : (s.commitProduce m).pendCap = s.pendCap := rfl
@[simp] theorem State.commitProduce_pendCustom (m : Nat) : (s.commitProduce m).pendCustom = s.pendCustom := rfl
@[simp] theorem State.commitProduce_pendBase (m : Nat) : (s.commitProduce m).pendBase = s.pendBase := rfl
@[simp] theorem State.commitProduce_result (m : Nat) : (s.commitProduce m).result = s.result := rfl
@[simp] theorem State.commitProduce_errClass (m : Nat) : (s.commitProduce m).errClass = s.errClass := rfl
@[simp] theorem State.commitProduce_errCode (m : Nat) : (s.commitProduce m).errCode = s.errCode := rfl
@[simp] theorem State.commitProduce_cap (m : Nat) : (s.commitProduce m).cap = s.cap := rfl
@[simp] theorem State.commitProduce_bufCustom (m : Nat) : (s.commitProduce m).bufCustom = s.bufCustom := rfl
@[simp] theorem State.commitProduce_bufBase (m : Nat) : (s.commitProduce m).bufBase = s.bufBase := rfl
@[simp] theorem State.commitProduce_rd (m : Nat) : (s.commitProduce m).rd = s.rd := rfl
@[simp] theorem State.commitProduce_wr (m : Nat) : (s.commitProduce m).wr = BitVec.ofNat 16 (s.ringOff s.wr m) := rfl
@[simp] theorem State.commitProduce_occ (m : Nat) : (s.commitProduce m).occ = s.occ + BitVec.ofNat 16 m := rfl
@[simp] theorem State.commitProduce_startBlock (m : Nat) : (s.commitProduce m).startBlock = s.startBlock := rfl
@[simp] theorem State.commitProduce_total (m : Nat) : (s.commitProduce m).total = s.total := rfl
@[simp] theorem State.commitProduce_consumed (m : Nat) : (s.commitProduce m).consumed = s.consumed := rfl
@[simp] theorem State.commitProduce_blkIdx (m : Nat) : (s.commitProduce m).blkIdx = s.blkIdx := rfl
@[simp] theorem State.commitProduce_csId (m : Nat) : (s.commitProduce m).csId = s.csId := rfl
@[simp] theorem State.commitProduce_customBase (m : Nat) : (s.commitProduce m).customBase = s.customBase := rfl
@[simp] theorem State.commitProduce_customLen (m : Nat) : (s.commitProduce m).customLen = s.customLen := rfl
@[simp] theorem State.commitProduce_arg0 (m : Nat) : (s.commitProduce m).arg0 = s.arg0 := rfl
@[simp] theorem State.commitProduce_arg1 (m : Nat) : (s.commitProduce m).arg1 = s.arg1 := rfl
@[simp] theorem State.commitProduce_ram (m : Nat) : (s.commitProduce m).ram = s.ram := rfl
@[simp] theorem State.commitProduce_ext (m : Nat) : (s.commitProduce m).ext = s.ext := rfl
@[simp] theorem State.commitProduce_bufForeign (m : Nat) : (s.commitProduce m).bufForeign = s.bufForeign := rfl
@[simp] theorem State.commitProduce_cfg (m : Nat) : (s.commitProduce m).cfg = s.cfg := rfl
@[simp] theorem State.commitProduce_draws (m : Nat) : (s.commitProduce m).draws = s.draws := rfl
@[simp] theorem State.commitProduce_inputs (m : Nat) : (s.commitProduce m).inputs = s.inputs := rfl
@[simp] theorem State.commitProduce_outs (m : Nat) : (s.commitProduce m).outs = s.outs := rfl

/-! ### ringReset -/

@[simp] theorem State.ringReset_initDone : (s.ringReset).initDone = s.initDone := rfl
@[simp] theorem State.ringReset_playing : (s.ringReset).playing = s.playing := rfl
@[simp] theorem State.ringReset_stopped : (s.ringReset).stopped = s.stopped := rfl
@[simp] theorem State.ringReset_underrun : (s.ringReset).underrun = s.underrun := rfl
@[simp] theorem State.ringReset_halfRate : (s.ringReset).halfRate = s.halfRate := rfl
@[simp] theorem State.ringReset_alt : (s.ringReset).alt = s.alt := rfl
@[simp] theorem State.ringReset_stereo : (s.ringReset).stereo = s.stereo := rfl
@[simp] theorem State.ringReset_bridge : (s.ringReset).bridge = s.bridge := rfl
@[simp] theorem State.ringReset_tickEn : (s.ringReset).tickEn = s.tickEn := rfl
@[simp] theorem State.ringReset_busy : (s.ringReset).busy = s.busy := rfl
@[simp] theorem State.ringReset_pendKind : (s.ringReset).pendKind = s.pendKind := rfl
@[simp] theorem State.ringReset_pendMode : (s.ringReset).pendMode = s.pendMode := rfl
@[simp] theorem State.ringReset_pendCap : (s.ringReset).pendCap = s.pendCap := rfl
@[simp] theorem State.ringReset_pendCustom : (s.ringReset).pendCustom = s.pendCustom := rfl
@[simp] theorem State.ringReset_pendBase : (s.ringReset).pendBase = s.pendBase := rfl
@[simp] theorem State.ringReset_result : (s.ringReset).result = s.result := rfl
@[simp] theorem State.ringReset_errClass : (s.ringReset).errClass = s.errClass := rfl
@[simp] theorem State.ringReset_errCode : (s.ringReset).errCode = s.errCode := rfl
@[simp] theorem State.ringReset_cap : (s.ringReset).cap = s.cap := rfl
@[simp] theorem State.ringReset_bufCustom : (s.ringReset).bufCustom = s.bufCustom := rfl
@[simp] theorem State.ringReset_bufBase : (s.ringReset).bufBase = s.bufBase := rfl
@[simp] theorem State.ringReset_rd : (s.ringReset).rd = 0 := rfl
@[simp] theorem State.ringReset_wr : (s.ringReset).wr = 0 := rfl
@[simp] theorem State.ringReset_occ : (s.ringReset).occ = 0 := rfl
@[simp] theorem State.ringReset_startBlock : (s.ringReset).startBlock = s.startBlock := rfl
@[simp] theorem State.ringReset_total : (s.ringReset).total = s.total := rfl
@[simp] theorem State.ringReset_consumed : (s.ringReset).consumed = s.consumed := rfl
@[simp] theorem State.ringReset_blkIdx : (s.ringReset).blkIdx = s.blkIdx := rfl
@[simp] theorem State.ringReset_csId : (s.ringReset).csId = s.csId := rfl
@[simp] theorem State.ringReset_customBase : (s.ringReset).customBase = s.customBase := rfl
@[simp] theorem State.ringReset_customLen : (s.ringReset).customLen = s.customLen := rfl
@[simp] theorem State.ringReset_arg0 : (s.ringReset).arg0 = s.arg0 := rfl
@[simp] theorem State.ringReset_arg1 : (s.ringReset).arg1 = s.arg1 := rfl
@[simp] theorem State.ringReset_ram : (s.ringReset).ram = s.ram := rfl
@[simp] theorem State.ringReset_ext : (s.ringReset).ext = s.ext := rfl
@[simp] theorem State.ringReset_bufForeign : (s.ringReset).bufForeign = s.bufForeign := rfl
@[simp] theorem State.ringReset_cfg : (s.ringReset).cfg = s.cfg := rfl
@[simp] theorem State.ringReset_draws : (s.ringReset).draws = s.draws := rfl
@[simp] theorem State.ringReset_inputs : (s.ringReset).inputs = s.inputs := rfl
@[simp] theorem State.ringReset_outs : (s.ringReset).outs = s.outs := rfl

/-! ### doStop -/

@[simp] theorem State.doStop_initDone : (s.doStop).initDone = s.initDone := rfl
@[simp] theorem State.doStop_playing : (s.doStop).playing = false := rfl
@[simp] theorem State.doStop_stopped : (s.doStop).stopped = true := rfl
@[simp] theorem State.doStop_underrun : (s.doStop).underrun = s.underrun := rfl
@[simp] theorem State.doStop_halfRate : (s.doStop).halfRate = s.halfRate := rfl
@[simp] theorem State.doStop_alt : (s.doStop).alt = s.alt := rfl
@[simp] theorem State.doStop_stereo : (s.doStop).stereo = s.stereo := rfl
@[simp] theorem State.doStop_bridge : (s.doStop).bridge = s.bridge := rfl
@[simp] theorem State.doStop_tickEn : (s.doStop).tickEn = s.tickEn := rfl
@[simp] theorem State.doStop_busy : (s.doStop).busy = s.busy := rfl
@[simp] theorem State.doStop_pendKind : (s.doStop).pendKind = s.pendKind := rfl
@[simp] theorem State.doStop_pendMode : (s.doStop).pendMode = s.pendMode := rfl
@[simp] theorem State.doStop_pendCap : (s.doStop).pendCap = s.pendCap := rfl
@[simp] theorem State.doStop_pendCustom : (s.doStop).pendCustom = s.pendCustom := rfl
@[simp] theorem State.doStop_pendBase : (s.doStop).pendBase = s.pendBase := rfl
@[simp] theorem State.doStop_result : (s.doStop).result = s.result := rfl
@[simp] theorem State.doStop_errClass : (s.doStop).errClass = s.errClass := rfl
@[simp] theorem State.doStop_errCode : (s.doStop).errCode = s.errCode := rfl
@[simp] theorem State.doStop_cap : (s.doStop).cap = s.cap := rfl
@[simp] theorem State.doStop_bufCustom : (s.doStop).bufCustom = s.bufCustom := rfl
@[simp] theorem State.doStop_bufBase : (s.doStop).bufBase = s.bufBase := rfl
@[simp] theorem State.doStop_rd : (s.doStop).rd = 0 := rfl
@[simp] theorem State.doStop_wr : (s.doStop).wr = 0 := rfl
@[simp] theorem State.doStop_occ : (s.doStop).occ = 0 := rfl
@[simp] theorem State.doStop_startBlock : (s.doStop).startBlock = s.startBlock := rfl
@[simp] theorem State.doStop_total : (s.doStop).total = s.total := rfl
@[simp] theorem State.doStop_consumed : (s.doStop).consumed = 0 := rfl
@[simp] theorem State.doStop_blkIdx : (s.doStop).blkIdx = s.startBlock := rfl
@[simp] theorem State.doStop_csId : (s.doStop).csId = s.csId := rfl
@[simp] theorem State.doStop_customBase : (s.doStop).customBase = s.customBase := rfl
@[simp] theorem State.doStop_customLen : (s.doStop).customLen = s.customLen := rfl
@[simp] theorem State.doStop_arg0 : (s.doStop).arg0 = s.arg0 := rfl
@[simp] theorem State.doStop_arg1 : (s.doStop).arg1 = s.arg1 := rfl
@[simp] theorem State.doStop_ram : (s.doStop).ram = s.ram := rfl
@[simp] theorem State.doStop_ext : (s.doStop).ext = s.ext := rfl
@[simp] theorem State.doStop_bufForeign : (s.doStop).bufForeign = s.bufForeign := rfl
@[simp] theorem State.doStop_cfg : (s.doStop).cfg = s.cfg := rfl
@[simp] theorem State.doStop_draws : (s.doStop).draws = s.draws := rfl
@[simp] theorem State.doStop_inputs : (s.doStop).inputs = s.inputs := rfl
@[simp] theorem State.doStop_outs : (s.doStop).outs = s.outs := rfl

/-! ### doDeinit -/

@[simp] theorem State.doDeinit_initDone : (s.doDeinit).initDone = false := rfl
@[simp] theorem State.doDeinit_playing : (s.doDeinit).playing = false := rfl
@[simp] theorem State.doDeinit_stopped : (s.doDeinit).stopped = true := rfl
@[simp] theorem State.doDeinit_underrun : (s.doDeinit).underrun = s.underrun := rfl
@[simp] theorem State.doDeinit_halfRate : (s.doDeinit).halfRate = false := rfl
@[simp] theorem State.doDeinit_alt : (s.doDeinit).alt = false := rfl
@[simp] theorem State.doDeinit_stereo : (s.doDeinit).stereo = false := rfl
@[simp] theorem State.doDeinit_bridge : (s.doDeinit).bridge = false := rfl
@[simp] theorem State.doDeinit_tickEn : (s.doDeinit).tickEn = false := rfl
@[simp] theorem State.doDeinit_busy : (s.doDeinit).busy = s.busy := rfl
@[simp] theorem State.doDeinit_pendKind : (s.doDeinit).pendKind = s.pendKind := rfl
@[simp] theorem State.doDeinit_pendMode : (s.doDeinit).pendMode = s.pendMode := rfl
@[simp] theorem State.doDeinit_pendCap : (s.doDeinit).pendCap = s.pendCap := rfl
@[simp] theorem State.doDeinit_pendCustom : (s.doDeinit).pendCustom = s.pendCustom := rfl
@[simp] theorem State.doDeinit_pendBase : (s.doDeinit).pendBase = s.pendBase := rfl
@[simp] theorem State.doDeinit_result : (s.doDeinit).result = s.result := rfl
@[simp] theorem State.doDeinit_errClass : (s.doDeinit).errClass = s.errClass := rfl
@[simp] theorem State.doDeinit_errCode : (s.doDeinit).errCode = s.errCode := rfl
@[simp] theorem State.doDeinit_cap : (s.doDeinit).cap = 0 := rfl
@[simp] theorem State.doDeinit_bufCustom : (s.doDeinit).bufCustom = false := rfl
@[simp] theorem State.doDeinit_bufBase : (s.doDeinit).bufBase = 0 := rfl
@[simp] theorem State.doDeinit_rd : (s.doDeinit).rd = 0 := rfl
@[simp] theorem State.doDeinit_wr : (s.doDeinit).wr = 0 := rfl
@[simp] theorem State.doDeinit_occ : (s.doDeinit).occ = 0 := rfl
@[simp] theorem State.doDeinit_startBlock : (s.doDeinit).startBlock = 0 := rfl
@[simp] theorem State.doDeinit_total : (s.doDeinit).total = 0 := rfl
@[simp] theorem State.doDeinit_consumed : (s.doDeinit).consumed = 0 := rfl
@[simp] theorem State.doDeinit_blkIdx : (s.doDeinit).blkIdx = 0 := rfl
@[simp] theorem State.doDeinit_csId : (s.doDeinit).csId = s.csId := rfl
@[simp] theorem State.doDeinit_customBase : (s.doDeinit).customBase = s.customBase := rfl
@[simp] theorem State.doDeinit_customLen : (s.doDeinit).customLen = s.customLen := rfl
@[simp] theorem State.doDeinit_arg0 : (s.doDeinit).arg0 = s.arg0 := rfl
@[simp] theorem State.doDeinit_arg1 : (s.doDeinit).arg1 = s.arg1 := rfl
@[simp] theorem State.doDeinit_ram : (s.doDeinit).ram = s.ram := rfl
@[simp] theorem State.doDeinit_ext : (s.doDeinit).ext = s.ext := rfl
@[simp] theorem State.doDeinit_bufForeign : (s.doDeinit).bufForeign = s.bufForeign := rfl
@[simp] theorem State.doDeinit_cfg : (s.doDeinit).cfg = s.cfg := rfl
@[simp] theorem State.doDeinit_draws : (s.doDeinit).draws = s.draws := rfl
@[simp] theorem State.doDeinit_inputs : (s.doDeinit).inputs = s.inputs := rfl
@[simp] theorem State.doDeinit_outs : (s.doDeinit).outs = s.outs := rfl

/-! ### flipAlt -/

@[simp] theorem State.flipAlt_initDone : (s.flipAlt).initDone = s.initDone := rfl
@[simp] theorem State.flipAlt_playing : (s.flipAlt).playing = s.playing := rfl
@[simp] theorem State.flipAlt_stopped : (s.flipAlt).stopped = s.stopped := rfl
@[simp] theorem State.flipAlt_underrun : (s.flipAlt).underrun = s.underrun := rfl
@[simp] theorem State.flipAlt_halfRate : (s.flipAlt).halfRate = s.halfRate := rfl
@[simp] theorem State.flipAlt_alt : (s.flipAlt).alt = if s.halfRate then !s.alt else s.alt := rfl
@[simp] theorem State.flipAlt_stereo : (s.flipAlt).stereo = s.stereo := rfl
@[simp] theorem State.flipAlt_bridge : (s.flipAlt).bridge = s.bridge := rfl
@[simp] theorem State.flipAlt_tickEn : (s.flipAlt).tickEn = s.tickEn := rfl
@[simp] theorem State.flipAlt_busy : (s.flipAlt).busy = s.busy := rfl
@[simp] theorem State.flipAlt_pendKind : (s.flipAlt).pendKind = s.pendKind := rfl
@[simp] theorem State.flipAlt_pendMode : (s.flipAlt).pendMode = s.pendMode := rfl
@[simp] theorem State.flipAlt_pendCap : (s.flipAlt).pendCap = s.pendCap := rfl
@[simp] theorem State.flipAlt_pendCustom : (s.flipAlt).pendCustom = s.pendCustom := rfl
@[simp] theorem State.flipAlt_pendBase : (s.flipAlt).pendBase = s.pendBase := rfl
@[simp] theorem State.flipAlt_result : (s.flipAlt).result = s.result := rfl
@[simp] theorem State.flipAlt_errClass : (s.flipAlt).errClass = s.errClass := rfl
@[simp] theorem State.flipAlt_errCode : (s.flipAlt).errCode = s.errCode := rfl
@[simp] theorem State.flipAlt_cap : (s.flipAlt).cap = s.cap := rfl
@[simp] theorem State.flipAlt_bufCustom : (s.flipAlt).bufCustom = s.bufCustom := rfl
@[simp] theorem State.flipAlt_bufBase : (s.flipAlt).bufBase = s.bufBase := rfl
@[simp] theorem State.flipAlt_rd : (s.flipAlt).rd = s.rd := rfl
@[simp] theorem State.flipAlt_wr : (s.flipAlt).wr = s.wr := rfl
@[simp] theorem State.flipAlt_occ : (s.flipAlt).occ = s.occ := rfl
@[simp] theorem State.flipAlt_startBlock : (s.flipAlt).startBlock = s.startBlock := rfl
@[simp] theorem State.flipAlt_total : (s.flipAlt).total = s.total := rfl
@[simp] theorem State.flipAlt_consumed : (s.flipAlt).consumed = s.consumed := rfl
@[simp] theorem State.flipAlt_blkIdx : (s.flipAlt).blkIdx = s.blkIdx := rfl
@[simp] theorem State.flipAlt_csId : (s.flipAlt).csId = s.csId := rfl
@[simp] theorem State.flipAlt_customBase : (s.flipAlt).customBase = s.customBase := rfl
@[simp] theorem State.flipAlt_customLen : (s.flipAlt).customLen = s.customLen := rfl
@[simp] theorem State.flipAlt_arg0 : (s.flipAlt).arg0 = s.arg0 := rfl
@[simp] theorem State.flipAlt_arg1 : (s.flipAlt).arg1 = s.arg1 := rfl
@[simp] theorem State.flipAlt_ram : (s.flipAlt).ram = s.ram := rfl
@[simp] theorem State.flipAlt_ext : (s.flipAlt).ext = s.ext := rfl
@[simp] theorem State.flipAlt_bufForeign : (s.flipAlt).bufForeign = s.bufForeign := rfl
@[simp] theorem State.flipAlt_cfg : (s.flipAlt).cfg = s.cfg := rfl
@[simp] theorem State.flipAlt_draws : (s.flipAlt).draws = s.draws := rfl
@[simp] theorem State.flipAlt_inputs : (s.flipAlt).inputs = s.inputs := rfl
@[simp] theorem State.flipAlt_outs : (s.flipAlt).outs = s.outs := rfl

/-! ### applyReset -/

@[simp] theorem State.applyReset_initDone : (s.applyReset).initDone = State.reset.initDone := rfl
@[simp] theorem State.applyReset_playing : (s.applyReset).playing = State.reset.playing := rfl
@[simp] theorem State.applyReset_stopped : (s.applyReset).stopped = State.reset.stopped := rfl
@[simp] theorem State.applyReset_underrun : (s.applyReset).underrun = State.reset.underrun := rfl
@[simp] theorem State.applyReset_halfRate : (s.applyReset).halfRate = State.reset.halfRate := rfl
@[simp] theorem State.applyReset_alt : (s.applyReset).alt = State.reset.alt := rfl
@[simp] theorem State.applyReset_stereo : (s.applyReset).stereo = State.reset.stereo := rfl
@[simp] theorem State.applyReset_bridge : (s.applyReset).bridge = State.reset.bridge := rfl
@[simp] theorem State.applyReset_tickEn : (s.applyReset).tickEn = State.reset.tickEn := rfl
@[simp] theorem State.applyReset_busy : (s.applyReset).busy = State.reset.busy := rfl
@[simp] theorem State.applyReset_pendKind : (s.applyReset).pendKind = State.reset.pendKind := rfl
@[simp] theorem State.applyReset_pendMode : (s.applyReset).pendMode = State.reset.pendMode := rfl
@[simp] theorem State.applyReset_pendCap : (s.applyReset).pendCap = State.reset.pendCap := rfl
@[simp] theorem State.applyReset_pendCustom : (s.applyReset).pendCustom = State.reset.pendCustom := rfl
@[simp] theorem State.applyReset_pendBase : (s.applyReset).pendBase = State.reset.pendBase := rfl
@[simp] theorem State.applyReset_result : (s.applyReset).result = State.reset.result := rfl
@[simp] theorem State.applyReset_errClass : (s.applyReset).errClass = State.reset.errClass := rfl
@[simp] theorem State.applyReset_errCode : (s.applyReset).errCode = State.reset.errCode := rfl
@[simp] theorem State.applyReset_cap : (s.applyReset).cap = State.reset.cap := rfl
@[simp] theorem State.applyReset_bufCustom : (s.applyReset).bufCustom = State.reset.bufCustom := rfl
@[simp] theorem State.applyReset_bufBase : (s.applyReset).bufBase = State.reset.bufBase := rfl
@[simp] theorem State.applyReset_rd : (s.applyReset).rd = State.reset.rd := rfl
@[simp] theorem State.applyReset_wr : (s.applyReset).wr = State.reset.wr := rfl
@[simp] theorem State.applyReset_occ : (s.applyReset).occ = State.reset.occ := rfl
@[simp] theorem State.applyReset_startBlock : (s.applyReset).startBlock = State.reset.startBlock := rfl
@[simp] theorem State.applyReset_total : (s.applyReset).total = State.reset.total := rfl
@[simp] theorem State.applyReset_consumed : (s.applyReset).consumed = State.reset.consumed := rfl
@[simp] theorem State.applyReset_blkIdx : (s.applyReset).blkIdx = State.reset.blkIdx := rfl
@[simp] theorem State.applyReset_csId : (s.applyReset).csId = State.reset.csId := rfl
@[simp] theorem State.applyReset_customBase : (s.applyReset).customBase = State.reset.customBase := rfl
@[simp] theorem State.applyReset_customLen : (s.applyReset).customLen = State.reset.customLen := rfl
@[simp] theorem State.applyReset_arg0 : (s.applyReset).arg0 = State.reset.arg0 := rfl
@[simp] theorem State.applyReset_arg1 : (s.applyReset).arg1 = State.reset.arg1 := rfl
@[simp] theorem State.applyReset_ram : (s.applyReset).ram = State.reset.ram := rfl
@[simp] theorem State.applyReset_ext : (s.applyReset).ext = s.ext := rfl
@[simp] theorem State.applyReset_bufForeign : (s.applyReset).bufForeign = State.reset.bufForeign := rfl
@[simp] theorem State.applyReset_cfg : (s.applyReset).cfg = s.cfg := rfl
@[simp] theorem State.applyReset_draws : (s.applyReset).draws = s.draws := rfl
@[simp] theorem State.applyReset_inputs : (s.applyReset).inputs = s.inputs := rfl
@[simp] theorem State.applyReset_outs : (s.applyReset).outs = s.outs := rfl

/-! ### foreignAccess -/

@[simp] theorem State.foreignAccess_initDone (addr : Word) : (s.foreignAccess addr).initDone = s.initDone := rfl
@[simp] theorem State.foreignAccess_playing (addr : Word) : (s.foreignAccess addr).playing = s.playing := rfl
@[simp] theorem State.foreignAccess_stopped (addr : Word) : (s.foreignAccess addr).stopped = s.stopped := rfl
@[simp] theorem State.foreignAccess_underrun (addr : Word) : (s.foreignAccess addr).underrun = s.underrun := rfl
@[simp] theorem State.foreignAccess_halfRate (addr : Word) : (s.foreignAccess addr).halfRate = s.halfRate := rfl
@[simp] theorem State.foreignAccess_alt (addr : Word) : (s.foreignAccess addr).alt = s.alt := rfl
@[simp] theorem State.foreignAccess_stereo (addr : Word) : (s.foreignAccess addr).stereo = s.stereo := rfl
@[simp] theorem State.foreignAccess_bridge (addr : Word) : (s.foreignAccess addr).bridge = s.bridge := rfl
@[simp] theorem State.foreignAccess_tickEn (addr : Word) : (s.foreignAccess addr).tickEn = s.tickEn := rfl
@[simp] theorem State.foreignAccess_busy (addr : Word) : (s.foreignAccess addr).busy = s.busy := rfl
@[simp] theorem State.foreignAccess_pendKind (addr : Word) : (s.foreignAccess addr).pendKind = s.pendKind := rfl
@[simp] theorem State.foreignAccess_pendMode (addr : Word) : (s.foreignAccess addr).pendMode = s.pendMode := rfl
@[simp] theorem State.foreignAccess_pendCap (addr : Word) : (s.foreignAccess addr).pendCap = s.pendCap := rfl
@[simp] theorem State.foreignAccess_pendCustom (addr : Word) : (s.foreignAccess addr).pendCustom = s.pendCustom := rfl
@[simp] theorem State.foreignAccess_pendBase (addr : Word) : (s.foreignAccess addr).pendBase = s.pendBase := rfl
@[simp] theorem State.foreignAccess_result (addr : Word) : (s.foreignAccess addr).result = s.result := rfl
@[simp] theorem State.foreignAccess_errClass (addr : Word) : (s.foreignAccess addr).errClass = s.errClass := rfl
@[simp] theorem State.foreignAccess_errCode (addr : Word) : (s.foreignAccess addr).errCode = s.errCode := rfl
@[simp] theorem State.foreignAccess_cap (addr : Word) : (s.foreignAccess addr).cap = s.cap := rfl
@[simp] theorem State.foreignAccess_bufCustom (addr : Word) : (s.foreignAccess addr).bufCustom = s.bufCustom := rfl
@[simp] theorem State.foreignAccess_bufBase (addr : Word) : (s.foreignAccess addr).bufBase = s.bufBase := rfl
@[simp] theorem State.foreignAccess_rd (addr : Word) : (s.foreignAccess addr).rd = s.rd := rfl
@[simp] theorem State.foreignAccess_wr (addr : Word) : (s.foreignAccess addr).wr = s.wr := rfl
@[simp] theorem State.foreignAccess_occ (addr : Word) : (s.foreignAccess addr).occ = s.occ := rfl
@[simp] theorem State.foreignAccess_startBlock (addr : Word) : (s.foreignAccess addr).startBlock = s.startBlock := rfl
@[simp] theorem State.foreignAccess_total (addr : Word) : (s.foreignAccess addr).total = s.total := rfl
@[simp] theorem State.foreignAccess_consumed (addr : Word) : (s.foreignAccess addr).consumed = s.consumed := rfl
@[simp] theorem State.foreignAccess_blkIdx (addr : Word) : (s.foreignAccess addr).blkIdx = s.blkIdx := rfl
@[simp] theorem State.foreignAccess_csId (addr : Word) : (s.foreignAccess addr).csId = s.csId := rfl
@[simp] theorem State.foreignAccess_customBase (addr : Word) : (s.foreignAccess addr).customBase = s.customBase := rfl
@[simp] theorem State.foreignAccess_customLen (addr : Word) : (s.foreignAccess addr).customLen = s.customLen := rfl
@[simp] theorem State.foreignAccess_arg0 (addr : Word) : (s.foreignAccess addr).arg0 = s.arg0 := rfl
@[simp] theorem State.foreignAccess_arg1 (addr : Word) : (s.foreignAccess addr).arg1 = s.arg1 := rfl
@[simp] theorem State.foreignAccess_ram (addr : Word) : (s.foreignAccess addr).ram = s.ram := rfl
@[simp] theorem State.foreignAccess_ext (addr : Word) : (s.foreignAccess addr).ext = s.ext := rfl
@[simp] theorem State.foreignAccess_bufForeign (addr : Word) : (s.foreignAccess addr).bufForeign = (s.bufForeign || s.ownsExternal (addr.toNat % s.extSize)) := rfl
@[simp] theorem State.foreignAccess_cfg (addr : Word) : (s.foreignAccess addr).cfg = s.cfg := rfl
@[simp] theorem State.foreignAccess_draws (addr : Word) : (s.foreignAccess addr).draws = s.draws := rfl
@[simp] theorem State.foreignAccess_inputs (addr : Word) : (s.foreignAccess addr).inputs = s.inputs := rfl
@[simp] theorem State.foreignAccess_outs (addr : Word) : (s.foreignAccess addr).outs = s.outs := rfl

/-! ### foreignWrite -/

@[simp] theorem State.foreignWrite_initDone (addr : Word) : (s.foreignWrite addr).initDone = s.initDone := rfl
@[simp] theorem State.foreignWrite_playing (addr : Word) : (s.foreignWrite addr).playing = s.playing := rfl
@[simp] theorem State.foreignWrite_stopped (addr : Word) : (s.foreignWrite addr).stopped = s.stopped := rfl
@[simp] theorem State.foreignWrite_underrun (addr : Word) : (s.foreignWrite addr).underrun = s.underrun := rfl
@[simp] theorem State.foreignWrite_halfRate (addr : Word) : (s.foreignWrite addr).halfRate = s.halfRate := rfl
@[simp] theorem State.foreignWrite_alt (addr : Word) : (s.foreignWrite addr).alt = s.alt := rfl
@[simp] theorem State.foreignWrite_stereo (addr : Word) : (s.foreignWrite addr).stereo = s.stereo := rfl
@[simp] theorem State.foreignWrite_bridge (addr : Word) : (s.foreignWrite addr).bridge = s.bridge := rfl
@[simp] theorem State.foreignWrite_tickEn (addr : Word) : (s.foreignWrite addr).tickEn = s.tickEn := rfl
@[simp] theorem State.foreignWrite_busy (addr : Word) : (s.foreignWrite addr).busy = s.busy := rfl
@[simp] theorem State.foreignWrite_pendKind (addr : Word) : (s.foreignWrite addr).pendKind = s.pendKind := rfl
@[simp] theorem State.foreignWrite_pendMode (addr : Word) : (s.foreignWrite addr).pendMode = s.pendMode := rfl
@[simp] theorem State.foreignWrite_pendCap (addr : Word) : (s.foreignWrite addr).pendCap = s.pendCap := rfl
@[simp] theorem State.foreignWrite_pendCustom (addr : Word) : (s.foreignWrite addr).pendCustom = s.pendCustom := rfl
@[simp] theorem State.foreignWrite_pendBase (addr : Word) : (s.foreignWrite addr).pendBase = s.pendBase := rfl
@[simp] theorem State.foreignWrite_result (addr : Word) : (s.foreignWrite addr).result = s.result := rfl
@[simp] theorem State.foreignWrite_errClass (addr : Word) : (s.foreignWrite addr).errClass = s.errClass := rfl
@[simp] theorem State.foreignWrite_errCode (addr : Word) : (s.foreignWrite addr).errCode = s.errCode := rfl
@[simp] theorem State.foreignWrite_cap (addr : Word) : (s.foreignWrite addr).cap = s.cap := rfl
@[simp] theorem State.foreignWrite_bufCustom (addr : Word) : (s.foreignWrite addr).bufCustom = s.bufCustom := rfl
@[simp] theorem State.foreignWrite_bufBase (addr : Word) : (s.foreignWrite addr).bufBase = s.bufBase := rfl
@[simp] theorem State.foreignWrite_rd (addr : Word) : (s.foreignWrite addr).rd = s.rd := rfl
@[simp] theorem State.foreignWrite_wr (addr : Word) : (s.foreignWrite addr).wr = s.wr := rfl
@[simp] theorem State.foreignWrite_occ (addr : Word) : (s.foreignWrite addr).occ = s.occ := rfl
@[simp] theorem State.foreignWrite_startBlock (addr : Word) : (s.foreignWrite addr).startBlock = s.startBlock := rfl
@[simp] theorem State.foreignWrite_total (addr : Word) : (s.foreignWrite addr).total = s.total := rfl
@[simp] theorem State.foreignWrite_consumed (addr : Word) : (s.foreignWrite addr).consumed = s.consumed := rfl
@[simp] theorem State.foreignWrite_blkIdx (addr : Word) : (s.foreignWrite addr).blkIdx = s.blkIdx := rfl
@[simp] theorem State.foreignWrite_csId (addr : Word) : (s.foreignWrite addr).csId = s.csId := rfl
@[simp] theorem State.foreignWrite_customBase (addr : Word) : (s.foreignWrite addr).customBase = s.customBase := rfl
@[simp] theorem State.foreignWrite_customLen (addr : Word) : (s.foreignWrite addr).customLen = s.customLen := rfl
@[simp] theorem State.foreignWrite_arg0 (addr : Word) : (s.foreignWrite addr).arg0 = s.arg0 := rfl
@[simp] theorem State.foreignWrite_arg1 (addr : Word) : (s.foreignWrite addr).arg1 = s.arg1 := rfl
@[simp] theorem State.foreignWrite_ram (addr : Word) : (s.foreignWrite addr).ram = s.ram := rfl
@[simp] theorem State.foreignWrite_ext (addr : Word) : (s.foreignWrite addr).ext = Memory.forget s.ext fun a => a == addr.toNat % s.extSize := rfl
@[simp] theorem State.foreignWrite_bufForeign (addr : Word) : (s.foreignWrite addr).bufForeign = (s.bufForeign || s.ownsExternal (addr.toNat % s.extSize)) := rfl
@[simp] theorem State.foreignWrite_cfg (addr : Word) : (s.foreignWrite addr).cfg = s.cfg := rfl
@[simp] theorem State.foreignWrite_draws (addr : Word) : (s.foreignWrite addr).draws = s.draws := rfl
@[simp] theorem State.foreignWrite_inputs (addr : Word) : (s.foreignWrite addr).inputs = s.inputs := rfl
@[simp] theorem State.foreignWrite_outs (addr : Word) : (s.foreignWrite addr).outs = s.outs := rfl

/-! ### taking -/

@[simp] theorem State.taking_initDone (rest : List Arrival) : (s.taking rest).initDone = s.initDone := rfl
@[simp] theorem State.taking_playing (rest : List Arrival) : (s.taking rest).playing = s.playing := rfl
@[simp] theorem State.taking_stopped (rest : List Arrival) : (s.taking rest).stopped = s.stopped := rfl
@[simp] theorem State.taking_underrun (rest : List Arrival) : (s.taking rest).underrun = s.underrun := rfl
@[simp] theorem State.taking_halfRate (rest : List Arrival) : (s.taking rest).halfRate = s.halfRate := rfl
@[simp] theorem State.taking_alt (rest : List Arrival) : (s.taking rest).alt = s.alt := rfl
@[simp] theorem State.taking_stereo (rest : List Arrival) : (s.taking rest).stereo = s.stereo := rfl
@[simp] theorem State.taking_bridge (rest : List Arrival) : (s.taking rest).bridge = s.bridge := rfl
@[simp] theorem State.taking_tickEn (rest : List Arrival) : (s.taking rest).tickEn = s.tickEn := rfl
@[simp] theorem State.taking_busy (rest : List Arrival) : (s.taking rest).busy = s.busy := rfl
@[simp] theorem State.taking_pendKind (rest : List Arrival) : (s.taking rest).pendKind = s.pendKind := rfl
@[simp] theorem State.taking_pendMode (rest : List Arrival) : (s.taking rest).pendMode = s.pendMode := rfl
@[simp] theorem State.taking_pendCap (rest : List Arrival) : (s.taking rest).pendCap = s.pendCap := rfl
@[simp] theorem State.taking_pendCustom (rest : List Arrival) : (s.taking rest).pendCustom = s.pendCustom := rfl
@[simp] theorem State.taking_pendBase (rest : List Arrival) : (s.taking rest).pendBase = s.pendBase := rfl
@[simp] theorem State.taking_result (rest : List Arrival) : (s.taking rest).result = s.result := rfl
@[simp] theorem State.taking_errClass (rest : List Arrival) : (s.taking rest).errClass = s.errClass := rfl
@[simp] theorem State.taking_errCode (rest : List Arrival) : (s.taking rest).errCode = s.errCode := rfl
@[simp] theorem State.taking_cap (rest : List Arrival) : (s.taking rest).cap = s.cap := rfl
@[simp] theorem State.taking_bufCustom (rest : List Arrival) : (s.taking rest).bufCustom = s.bufCustom := rfl
@[simp] theorem State.taking_bufBase (rest : List Arrival) : (s.taking rest).bufBase = s.bufBase := rfl
@[simp] theorem State.taking_rd (rest : List Arrival) : (s.taking rest).rd = s.rd := rfl
@[simp] theorem State.taking_wr (rest : List Arrival) : (s.taking rest).wr = s.wr := rfl
@[simp] theorem State.taking_occ (rest : List Arrival) : (s.taking rest).occ = s.occ := rfl
@[simp] theorem State.taking_startBlock (rest : List Arrival) : (s.taking rest).startBlock = s.startBlock := rfl
@[simp] theorem State.taking_total (rest : List Arrival) : (s.taking rest).total = s.total := rfl
@[simp] theorem State.taking_consumed (rest : List Arrival) : (s.taking rest).consumed = s.consumed := rfl
@[simp] theorem State.taking_blkIdx (rest : List Arrival) : (s.taking rest).blkIdx = s.blkIdx := rfl
@[simp] theorem State.taking_csId (rest : List Arrival) : (s.taking rest).csId = s.csId := rfl
@[simp] theorem State.taking_customBase (rest : List Arrival) : (s.taking rest).customBase = s.customBase := rfl
@[simp] theorem State.taking_customLen (rest : List Arrival) : (s.taking rest).customLen = s.customLen := rfl
@[simp] theorem State.taking_arg0 (rest : List Arrival) : (s.taking rest).arg0 = s.arg0 := rfl
@[simp] theorem State.taking_arg1 (rest : List Arrival) : (s.taking rest).arg1 = s.arg1 := rfl
@[simp] theorem State.taking_ram (rest : List Arrival) : (s.taking rest).ram = s.ram := rfl
@[simp] theorem State.taking_ext (rest : List Arrival) : (s.taking rest).ext = s.ext := rfl
@[simp] theorem State.taking_bufForeign (rest : List Arrival) : (s.taking rest).bufForeign = s.bufForeign := rfl
@[simp] theorem State.taking_cfg (rest : List Arrival) : (s.taking rest).cfg = s.cfg := rfl
@[simp] theorem State.taking_draws (rest : List Arrival) : (s.taking rest).draws = s.draws + 1 := rfl
@[simp] theorem State.taking_inputs (rest : List Arrival) : (s.taking rest).inputs = rest := rfl
@[simp] theorem State.taking_outs (rest : List Arrival) : (s.taking rest).outs = s.outs := rfl

end Sys2Proof.Machine
end

