-- ==== Sys2Proof/Laws/Memory.lean ====
section
/-! SUPPORT. The laws of memory: a read after a write, the canonical form, and the bytes of a region. -/

namespace Sys2Proof.Machine

@[simp] theorem Memory.get?_nil (a : Nat) : Memory.get? [] a = none := rfl

@[simp] theorem Memory.get?_set_same (m : Memory) (a : Nat) (b : Byte) :
    Memory.get? (Memory.set m a b) a = some b := by
  induction m with
  | nil => simp [Memory.set, Memory.get?]
  | cons c m ih =>
    obtain ⟨k, v⟩ := c
    unfold Memory.set
    split
    · simp [Memory.get?]
    · split
      · simp [Memory.get?]
      · simp [Memory.get?, ih, Ne.symm ‹¬a = k›]

theorem Memory.get?_set_of_ne (m : Memory) {a a' : Nat} (b : Byte) (h : a' ≠ a) :
    Memory.get? (Memory.set m a b) a' = Memory.get? m a' := by
  induction m with
  | nil => simp [Memory.set, Memory.get?, Ne.symm h]
  | cons c m ih =>
    obtain ⟨k, v⟩ := c
    unfold Memory.set
    split
    · simp [Memory.get?, Ne.symm h]
    · split
      · subst_vars; simp [Memory.get?, Ne.symm h]
      · simp [Memory.get?, ih]

/-- The addresses a write leaves listed: those listed before, and its own. -/
theorem Memory.mem_set {m : Memory} {a : Nat} {b : Byte} {c : Host.Cell} (h : c ∈ Memory.set m a b) :
    c ∈ m ∨ c = (a, b) := by
  induction m with
  | nil => simp_all [Memory.set]
  | cons d m ih =>
    obtain ⟨k, v⟩ := d
    unfold Memory.set at h
    split at h
    · simp at h ⊢; tauto
    · split at h
      · simp at h ⊢; tauto
      · simp only [List.mem_cons] at h
        rcases h with h | h
        · simp [h]
        · rcases ih h with h | h <;> simp [h]

theorem Memory.wf_nil : Memory.wf [] := List.Pairwise.nil

/-- The memories of the state after reset are canonical. -/
theorem State.reset_memories_wf : Memory.wf State.reset.ram ∧ Memory.wf State.reset.ext :=
  ⟨Memory.wf_nil, Memory.wf_nil⟩

theorem Memory.wf_set {m : Memory} (h : Memory.wf m) (a : Nat) (b : Byte) : Memory.wf (Memory.set m a b) := by
  induction m with
  | nil => simp [Memory.set]
  | cons c m ih =>
    obtain ⟨k, v⟩ := c
    obtain ⟨hk, hm⟩ := List.pairwise_cons.mp h
    unfold Memory.set
    split
    · refine List.pairwise_cons.mpr ⟨fun d hd => ?_, h⟩
      rcases List.mem_cons.mp hd with rfl | hd
      · assumption
      · exact Nat.lt_trans ‹a < k› (hk d hd)
    · split
      · subst_vars; exact List.pairwise_cons.mpr ⟨hk, hm⟩
      · refine List.pairwise_cons.mpr ⟨fun d hd => ?_, ih hm⟩
        rcases Memory.mem_set hd with hd | rfl
        · exact hk d hd
        · simp only; omega

theorem Memory.wf_setAll (key : Nat → Nat) (k : Nat) (data : List Byte) {m : Memory} (h : Memory.wf m) :
    Memory.wf (Memory.setAll key k data m) := by
  induction data generalizing k m with
  | nil => exact h
  | cons b bs ih => exact ih (k + 1) (Memory.wf_set h (key k) b)

theorem Memory.mem_setAll {key : Nat → Nat} {k : Nat} {data : List Byte} {m : Memory} {c : Host.Cell}
    (h : c ∈ Memory.setAll key k data m) : c ∈ m ∨ ∃ j, c.1 = key j := by
  induction data generalizing k m with
  | nil => exact .inl h
  | cons b bs ih =>
    rcases ih h with h | h
    · rcases Memory.mem_set h with h | rfl
      · exact .inl h
      · exact .inr ⟨k, rfl⟩
    · exact .inr h

/-- A region's write leaves every other address alone. -/
theorem Memory.get?_setAll_of_ne (key : Nat → Nat) (k : Nat) (data : List Byte) (m : Memory) {a : Nat}
    (h : ∀ j, k ≤ j → j < k + data.length → key j ≠ a) :
    Memory.get? (Memory.setAll key k data m) a = Memory.get? m a := by
  induction data generalizing k m with
  | nil => rfl
  | cons b bs ih =>
    simp only [Memory.setAll]
    rw [ih (k + 1) _ fun j h1 h2 => h j (by omega) (by simp; omega)]
    exact Memory.get?_set_of_ne m b (Ne.symm (h k (by omega) (by simp)))

/-- Each byte of a region reads back where no two of its offsets share an address. -/
theorem Memory.get?_setAll_same (key : Nat → Nat) (k : Nat) (data : List Byte) (m : Memory)
    (inj : ∀ i j, k ≤ i → i < k + data.length → k ≤ j → j < k + data.length → key i = key j → i = j)
    (i : Nat) (hi : i < data.length) :
    Memory.get? (Memory.setAll key k data m) (key (k + i)) = some data[i] := by
  induction data generalizing k m i with
  | nil => simp at hi
  | cons b bs ih =>
    simp only [Memory.setAll]
    cases i with
    | zero =>
      rw [Memory.get?_setAll_of_ne]
      · simp
      · intro j h1 h2 he
        have := inj j k (by omega) (by simp; omega) (by omega) (by simp) (by simpa using he)
        omega
    | succ i =>
      have hi' : i < bs.length := by simpa using hi
      have := ih (k + 1) (Memory.set m (key k) b)
        (fun i j h1 h2 h3 h4 => inj i j (by omega) (by simp; omega) (by omega) (by simp; omega)) i hi'
      rw [show k + (i + 1) = k + 1 + i by omega]
      simpa using this

theorem Memory.wf_forget {m : Memory} (h : Memory.wf m) (p : Nat → Bool) : Memory.wf (Memory.forget m p) :=
  List.Pairwise.filter _ h

theorem Memory.mem_forget {m : Memory} {p : Nat → Bool} {c : Host.Cell} (h : c ∈ Memory.forget m p) : c ∈ m :=
  List.mem_of_mem_filter h

/-- What a forgotten address reads as, and that every other address is left alone. -/
theorem Memory.get?_forget (m : Memory) (p : Nat → Bool) (a : Nat) :
    Memory.get? (Memory.forget m p) a = if p a then none else Memory.get? m a := by
  induction m with
  | nil => simp [Memory.forget]
  | cons c m ih =>
    obtain ⟨k, v⟩ := c
    have e : Memory.forget ((k, v) :: m) p = if p k then Memory.forget m p else (k, v) :: Memory.forget m p := by
      simp only [Memory.forget, List.filter_cons]
      cases p k <;> simp
    rw [e]
    by_cases hk : k = a
    · subst hk; cases h : p k <;> simp [ih, h, Memory.get?]
    · cases h : p k <;> simp [ih, Memory.get?, hk]

end Sys2Proof.Machine
end

