-- ==== Sys2Proof/Laws/Ring.lean ====
section
/-! SUPPORT. What each shared operation can do, said once: the placement of `BufMem`, the ring buffer's operations and the
guards of R51 and R96. -/

namespace Sys2Proof.Machine

/-! ### The placement of `BufMem` (R29) -/

theorem State.extSize_pos (s : State) : 0 < s.extSize := Nat.two_pow_pos _

/-- The updates that leave the placement leave every offset's address. -/
theorem State.bufKey_congr {s t : State} (hc : t.bufCustom = s.bufCustom) (hb : t.bufBase = s.bufBase)
    (hg : t.cfg = s.cfg) (off : Nat) : t.bufKey off = s.bufKey off := by
  simp [State.bufKey, State.extSize, hc, hb, hg]

/-- `(base + i) mod C` lies below `C`. -/
theorem State.ringOff_lt {s : State} (h : s.cap ≠ 0#16) (base : Count) (i : Nat) : s.ringOff base i < s.cap.toNat :=
  Nat.mod_lt _ (Nat.pos_of_ne_zero fun h0 => h (BitVec.eq_of_toNat_eq h0))

/-- An offset of the internal ring is its own address. -/
@[simp] theorem State.bufKey_internal {s : State} (h : s.bufCustom = false) (off : Nat) : s.bufKey off = off := by
  simp [State.bufKey, h]

/-- An external address lies in the external address space. -/
theorem State.bufKey_custom_lt {s : State} (h : s.bufCustom = true) (off : Nat) : s.bufKey off < s.extSize := by
  simp [State.bufKey, h, Nat.mod_lt _ s.extSize_pos]

/-- Two offsets of a ring whose region does not wrap never share an address. -/
theorem State.bufKey_inj {s : State} (h : s.bufWraps = false) {i j : Nat} (hi : i < s.cap.toNat) (hj : j < s.cap.toNat)
    (e : s.bufKey i = s.bufKey j) : i = j := by
  cases hc : s.bufCustom with
  | false => simpa [hc] using e
  | true =>
    simp [State.bufWraps, hc] at h
    simp only [State.bufKey, hc, if_true] at e
    rw [Nat.mod_eq_of_lt (by omega), Nat.mod_eq_of_lt (by omega)] at e
    omega

/-- Within one turn of the ring, two steps from a cursor never meet. -/
theorem State.ringOff_inj {s : State} (base : Count) {i j : Nat} (hi : i < s.cap.toNat) (hj : j < s.cap.toNat)
    (e : s.ringOff base i = s.ringOff base j) : i = j := by
  have h : i ≡ j [MOD s.cap.toNat] := Nat.ModEq.add_left_cancel' base.toNat e
  rw [Nat.ModEq, Nat.mod_eq_of_lt hi, Nat.mod_eq_of_lt hj] at h
  exact h

@[simp] theorem State.bufMem_setBufMem (s : State) (m : Memory) : (s.setBufMem m).bufMem = m := by
  cases h : s.bufCustom <;> simp [State.bufMem, h]

/-- A region's write changes no address outside the region. -/
theorem State.writeRegion_outside (s : State) (base : Count) (data : List Byte) {a : Nat}
    (h : s.inRegion base data.length a = false) :
    Memory.get? (s.writeRegion base data).bufMem a = Memory.get? s.bufMem a := by
  rw [State.writeRegion, State.bufMem_setBufMem]
  refine Memory.get?_setAll_of_ne _ _ _ _ fun j _ hj he => ?_
  have := List.any_eq_false.mp h j (by simpa using hj)
  simp [he] at this

/-- A region's write leaves the byte numbered `i` at the region's offset `i` (R68). -/
theorem State.writeRegion_inside {s : State} (base : Count) (data : List Byte) (hw : s.bufWraps = false)
    (hl : data.length ≤ s.cap.toNat) (i : Nat) (hi : i < data.length) :
    Memory.get? (s.writeRegion base data).bufMem (s.bufKey (s.ringOff base i)) = some data[i] := by
  have hc : s.cap ≠ 0#16 := by
    rintro h
    rw [h] at hl
    have : (0#16).toNat = 0 := rfl
    omega
  rw [State.writeRegion, State.bufMem_setBufMem]
  have := Memory.get?_setAll_same (fun k => s.bufKey (s.ringOff base k)) 0 data s.bufMem
    (fun i j _ h1 _ h2 e => s.ringOff_inj base (by omega) (by omega)
      (s.bufKey_inj hw (s.ringOff_lt hc base i) (s.ringOff_lt hc base j) e)) i hi
  simpa using this

/-- What a region's bytes read as once forgotten, and every other address. -/
theorem State.get?_forgetRegion (s : State) (base : Count) (n a : Nat) :
    Memory.get? (s.forgetRegion base n).bufMem a = if s.inRegion base n a then none else Memory.get? s.bufMem a := by
  rw [State.forgetRegion, State.bufMem_setBufMem, Memory.get?_forget]

/-! ### The ring buffer's operations -/

@[simp] theorem State.peekBytes_length (s : State) (n : Nat) : (s.peekBytes n).length = n := by
  simp [State.peekBytes]

/-- All that `tryPeekConsume` can do (R56). -/
theorem State.tryPeekConsume_cases (s : State) (n : Nat) :
    (s.occ.toNat < n ∧ s.tryPeekConsume n = .insufficient) ∨
    (n ≤ s.occ.toNat ∧ s.cap = 0#16 ∧ s.tryPeekConsume n = .unmapped) ∨
    (n ≤ s.occ.toNat ∧ s.cap ≠ 0#16 ∧ s.tryPeekConsume n = .taken (s.peekBytes n)
      { s with rd := BitVec.ofNat 16 (s.ringOff s.rd n), occ := s.occ - BitVec.ofNat 16 n }) := by
  unfold State.tryPeekConsume
  by_cases h : s.occ.toNat < n
  · exact .inl ⟨h, by simp [h]⟩
  · by_cases hc : s.cap = 0#16
    · exact .inr (.inl ⟨by omega, hc, by simp [h, hc]⟩)
    · exact .inr (.inr ⟨by omega, hc, by simp [h, hc]⟩)

/-- All that `reserveProduce` can do (R57). -/
theorem State.reserveProduce_cases (s : State) (n : Nat) :
    ((s.cap - s.occ).toNat < n ∧ s.reserveProduce n = none) ∨
    (n ≤ (s.cap - s.occ).toNat ∧ s.reserveProduce n = some s.wr) := by
  unfold State.reserveProduce
  by_cases h : (s.cap - s.occ).toNat < n
  · exact .inl ⟨h, if_pos h⟩
  · exact .inr ⟨Nat.le_of_not_lt h, if_neg h⟩

/-- A unit has `unitSize` bytes, so the output arbiter always has the bytes it sends (R63). -/
theorem State.muxOutput_unit (s : State) :
    ∃ b0 b1, muxOutput s.stereo s.bridge (s.peekBytes s.unitSize) =
      if s.stereo then [.dutyWrite .ch1 b0, .dutyWrite .ch2 b1]
      else if s.bridge then [.dutyWrite .ch1 b0, .dutyWrite .ch2 b0]
      else [.dutyWrite .ch1 b0] := by
  cases hs : s.stereo <;> cases hb : s.bridge <;>
    simp [State.unitSize, State.peekBytes, muxOutput, hs, List.range_succ]

/-! ### Operands -/

/-- All that INIT's choice of a buffer can answer (R77). -/
theorem State.bufferOperand_cases (s : State) :
    (s.customLen ≠ 0#16 ∧ s.bufferOperand = .ok (s.customLen, true, s.customBase)) ∨
    (s.customLen = 0#16 ∧ s.cfg.internalBufBytes = 0 ∧ s.bufferOperand = .error errBufAbsent) ∨
    (s.customLen = 0#16 ∧ 0 < s.cfg.internalBufBytes ∧ s.cfg.internalBufBytes < 1024 ∧
      s.bufferOperand = .error errBufSmall) ∨
    (s.customLen = 0#16 ∧ 1024 ≤ s.cfg.internalBufBytes ∧
      s.bufferOperand = .ok (capacityOf s.cfg.internalBufBytes, false, 0#32)) := by
  unfold State.bufferOperand
  by_cases h : s.customLen = 0#16
  · by_cases h0 : s.cfg.internalBufBytes = 0
    · simp [h, h0]
    · by_cases h1 : s.cfg.internalBufBytes < 1024
      · simp [h, h0, h1, Nat.pos_of_ne_zero h0, Config.minCap]
      · simp [h, h0, h1, Nat.le_of_not_lt h1, Config.minCap]
  · simp [h]

/-- The capacity that `n` bytes of memory give, as a number (R77, R80). -/
theorem capacityOf_toNat (n : Nat) : (capacityOf n).toNat = min (n - n % 512) 65024 := by
  simp only [capacityOf, trunc512, Config.block, Config.maxCap, BitVec.toNat_ofNat]
  exact Nat.mod_eq_of_lt (by omega)

/-- A counter is zero-extended (R27). -/
theorem countWord_eq (c : Count) : countWord c = c.setWidth 32 := by
  apply BitVec.eq_of_toNat_eq
  have h : (0#16 ++ c).toNat = c.toNat := by
    rw [BitVec.toNat_append]
    simp
  rw [countWord, h, BitVec.toNat_setWidth]
  have := c.isLt
  omega

/-- A byte is zero-extended (R27). -/
theorem byteWord_eq (b : Byte) : byteWord b = b.setWidth 32 := by
  apply BitVec.eq_of_toNat_eq
  have h : (0#24 ++ b).toNat = b.toNat := by
    rw [BitVec.toNat_append]
    simp
  rw [byteWord, h, BitVec.toNat_setWidth]
  have := b.isLt
  omega

/-! ### The guards -/

@[simp] theorem State.whenIdle_busy {s : State} (h : s.busy = true) (r : Result) : s.whenIdle r = .next s := by
  simp [State.whenIdle, h]

@[simp] theorem State.whenIdle_idle {s : State} (h : s.busy = false) (r : Result) : s.whenIdle r = r := by
  simp [State.whenIdle, h]

@[simp] theorem State.whenPending_match {s : State} {k : PendKind} (h : s.pendKind = k) (r : Result) :
    s.whenPending k r = r := by
  simp [State.whenPending, h]

@[simp] theorem State.whenPending_other {s : State} {k : PendKind} (h : s.pendKind ≠ k) (r : Result) :
    s.whenPending k r = .next s := by
  simp [State.whenPending, h]

end Sys2Proof.Machine
end

