-- ==== Sys2Proof/Laws/Invariant.lean ====
section
/-! SUPPORT. What the shared operations do to the invariant. -/

namespace Sys2Proof.Machine

/-- The invariant is about neither the errors, nor UNDERRUN, the arguments, the chip select or the model's own fields. -/
theorem Inv.congr {s t : State} (h : Inv s)
    (e : t = { s with
      outs := t.outs, underrun := t.underrun, result := t.result, errClass := t.errClass, errCode := t.errCode
      arg0 := t.arg0, arg1 := t.arg1, csId := t.csId, inputs := t.inputs, draws := t.draws
      bufForeign := t.bufForeign }) : Inv t := by
  rw [e]
  exact
    { occupancy := h.occupancy, cursors := h.cursors, noRing := h.noRing, capacity := h.capacity
      capacityInit := h.capacityInit, oneState := h.oneState, uninitialized := h.uninitialized
      playingTicks := h.playingTicks, consumedTotal := h.consumedTotal, blockAligned := h.blockAligned
      busyPending := h.busyPending, reservation := h.reservation, blockIndex := h.blockIndex
      customLength := h.customLength, initPending := h.initPending, lookupPending := h.lookupPending
      readPending := h.readPending, bases := h.bases, internalFits := h.internalFits, startedTicks := h.startedTicks
      altHalfRate := h.altHalfRate, reservedUnknown := h.reservedUnknown
      memories := h.memories, inMemory := h.inMemory }

/-- An idle block has no request pending (R20 item 9). -/
theorem Inv.nothingPending {s : State} (h : Inv s) (hb : s.busy = false) : s.pendKind = .none := by
  by_contra hk
  have := h.busyPending.mpr hk
  simp [hb] at this

/-- `DoStop` (R72) keeps the invariant where nothing is pending. -/
theorem Inv.doStop {s : State} (h : Inv s) (hk : s.pendKind = .none) : Inv s.doStop where
  occupancy := Nat.zero_le _
  cursors hc := by
    have : 0 < s.cap.toNat := Nat.pos_of_ne_zero fun h0 => hc (BitVec.eq_of_toNat_eq h0)
    exact ⟨this, this, by simp⟩
  noRing _ := ⟨rfl, rfl, rfl⟩
  capacity := h.capacity
  capacityInit := h.capacityInit
  oneState := by simp
  uninitialized hu := ⟨rfl, rfl, (h.uninitialized hu).2.2⟩
  playingTicks := by simp
  consumedTotal := Nat.zero_le _
  blockAligned _ := ⟨by simp, by simp⟩
  busyPending := h.busyPending
  reservation hr := by simp [hk] at hr
  blockIndex _ _ := by simp [blocksOf]
  customLength := h.customLength
  initPending hr := by simp [hk] at hr
  lookupPending hr := by simp [hk] at hr
  readPending hr := by simp [hk] at hr
  bases := h.bases
  internalFits := h.internalFits
  startedTicks := by simp
  altHalfRate := h.altHalfRate
  reservedUnknown hr := by simp [hk] at hr
  memories := h.memories
  inMemory := h.inMemory

/-- `DoDeinit` (R79) keeps the invariant where nothing is pending. -/
theorem Inv.doDeinit {s : State} (h : Inv s) (hk : s.pendKind = .none) : Inv s.doDeinit where
  occupancy := Nat.zero_le _
  cursors hc := absurd rfl hc
  noRing _ := ⟨rfl, rfl, rfl⟩
  capacity := .inl rfl
  capacityInit := by simp
  oneState := by simp
  uninitialized _ := ⟨rfl, rfl, rfl⟩
  playingTicks := by simp
  consumedTotal := Nat.zero_le _
  blockAligned _ := ⟨by simp, by simp⟩
  busyPending := h.busyPending
  reservation hr := by simp [hk] at hr
  blockIndex _ ht := absurd rfl ht
  customLength := h.customLength
  initPending hr := by simp [hk] at hr
  lookupPending hr := by simp [hk] at hr
  readPending hr := by simp [hk] at hr
  bases := ⟨h.bases.1, h.bases.2.1, State.extSize_pos _⟩
  internalFits _ := Nat.zero_le _
  startedTicks := by simp
  altHalfRate _ := rfl
  reservedUnknown hr := by simp [hk] at hr
  memories := h.memories
  inMemory := h.inMemory

/-- Replacing the active memory keeps the invariant, where the new one is canonical, lists no byte outside it, and nothing is
reserved. -/
theorem Inv.setBufMem {s : State} (h : Inv s) {m : Memory} (hk : s.pendKind ≠ .read) (hw : Memory.wf m)
    (hm : ∀ c ∈ m, c ∈ s.bufMem ∨ if s.bufCustom then c.1 < s.extSize else c.1 < s.cfg.internalBufBytes) :
    Inv (s.setBufMem m) := by
  refine
    { occupancy := h.occupancy, cursors := h.cursors, noRing := h.noRing, capacity := h.capacity
      capacityInit := h.capacityInit, oneState := h.oneState, uninitialized := h.uninitialized
      playingTicks := h.playingTicks, consumedTotal := h.consumedTotal, blockAligned := h.blockAligned
      busyPending := h.busyPending, reservation := h.reservation, blockIndex := h.blockIndex
      customLength := h.customLength, initPending := h.initPending, lookupPending := h.lookupPending
      readPending := h.readPending, bases := h.bases, internalFits := h.internalFits, startedTicks := h.startedTicks
      altHalfRate := h.altHalfRate, reservedUnknown := fun hr => absurd hr hk
      memories := ?_, inMemory := ?_ }
  · cases hc : s.bufCustom <;> simp [hc, h.memories, hw]
  · cases hc : s.bufCustom with
    | false =>
      simp only [hc, State.bufMem] at hm
      refine ⟨fun c hcm => ?_, fun c hcm => ?_⟩
      · simp only [State.setBufMem_ram, hc] at hcm
        rcases hm c hcm with h1 | h1
        · exact h.inMemory.1 c h1
        · simpa using h1
      · simp only [State.setBufMem_ext, hc] at hcm
        exact h.inMemory.2 c hcm
    | true =>
      simp only [hc, State.bufMem] at hm
      refine ⟨fun c hcm => ?_, fun c hcm => ?_⟩
      · simp only [State.setBufMem_ram, hc] at hcm
        exact h.inMemory.1 c hcm
      · simp only [State.setBufMem_ext, hc] at hcm
        show c.1 < s.extSize
        rcases hm c hcm with h1 | h1
        · exact h.inMemory.2 c h1
        · simpa using h1

/-- What INIT and SET_BUFFER take as a capacity is legal where the memory is large enough (R20 items 3 and 12). -/
theorem legalCapacity_capacityOf {n : Nat} (h : 1024 ≤ n) : LegalCapacity (capacityOf n) := by
  refine ⟨?_, ?_, ?_⟩ <;> rw [capacityOf_toNat] <;> simp only [Config.block, Config.minCap, Config.maxCap] <;> omega

end Sys2Proof.Machine
end

