-- ==== Sys2Proof/Laws/PerInstr.lean ====
section
/-! SUPPORT. The family of laws stated for each instruction: the port its encoding arrives at is that of its format in
spec/opcode_table.json. -/

namespace Sys2Proof

/-- The four instruction formats (spec/30_encoding.md R46). -/
inductive Format where
  | cmd
  | csrr
  | csrw
  | event
deriving DecidableEq, Repr

/-- The format an input has: the port tells, and offset 0x00 of a write (R46). -/
def PortInput.format : PortInput → Format
  | .tick | .stg _ => .event
  | .csr (.read _ _) => .csrr
  | .csr (.write off _ _) => if csrSelect off = 0#6 then .cmd else .csrw

/-- The format of an instruction's row in spec/opcode_table.json. -/
def Instr.format : Instr → Format
  | .init _ | .deinit | .setBuffer | .setCs _ | .selectFile | .play | .pause | .stop | .refill | .illegal _ => .cmd
  | .rdCmd | .rdArg0 | .rdArg1 | .rdStatus | .rdUnderrun | .rdLasterr | .rdMode | .rdCapacity | .rdOccupied
  | .rdRdPtr | .rdWrPtr | .rdStartBlock | .rdTotalBytes | .rdBytesConsumed | .rdBlockIndex | .rdCsId
  | .rdCustomBase | .rdCustomLen | .rdUnmapped _ => .csrr
  | .wrArg0 _ | .wrArg1 _ | .wrIgnored _ _ => .csrw
  | .tick | .stgInitResp _ | .stgLookupResp _ _ _ | .stgReadResp _ _ => .event

namespace Laws.PortFormat

/-- A well-formed instruction is encoded at the port of its format. -/
def Statement (i : Instr) : Prop := i.wf = true → (encode i).format = i.format

theorem init (mode : Byte) : Statement (.init mode) := fun _ => by
  simp [encode, fullWrite, PortInput.format, Instr.format]

theorem deinit : Statement .deinit := fun _ => by
  simp [encode, fullWrite, PortInput.format, Instr.format]

theorem setBuffer : Statement .setBuffer := fun _ => by
  simp [encode, fullWrite, PortInput.format, Instr.format]

theorem setCs (id : Byte) : Statement (.setCs id) := fun _ => by
  simp [encode, fullWrite, PortInput.format, Instr.format]

theorem selectFile : Statement .selectFile := fun _ => by
  simp [encode, fullWrite, PortInput.format, Instr.format]

theorem play : Statement .play := fun _ => by
  simp [encode, fullWrite, PortInput.format, Instr.format]

theorem pause : Statement .pause := fun _ => by
  simp [encode, fullWrite, PortInput.format, Instr.format]

theorem stop : Statement .stop := fun _ => by
  simp [encode, fullWrite, PortInput.format, Instr.format]

theorem refill : Statement .refill := fun _ => by
  simp [encode, fullWrite, PortInput.format, Instr.format]

theorem illegal (w : Word) : Statement (.illegal w) := fun _ => by
  simp [encode, fullWrite, PortInput.format, Instr.format]

theorem rdCmd : Statement .rdCmd := fun _ => rfl

theorem rdArg0 : Statement .rdArg0 := fun _ => rfl

theorem rdArg1 : Statement .rdArg1 := fun _ => rfl

theorem rdStatus : Statement .rdStatus := fun _ => rfl

theorem rdUnderrun : Statement .rdUnderrun := fun _ => rfl

theorem rdLasterr : Statement .rdLasterr := fun _ => rfl

theorem rdMode : Statement .rdMode := fun _ => rfl

theorem rdCapacity : Statement .rdCapacity := fun _ => rfl

theorem rdOccupied : Statement .rdOccupied := fun _ => rfl

theorem rdRdPtr : Statement .rdRdPtr := fun _ => rfl

theorem rdWrPtr : Statement .rdWrPtr := fun _ => rfl

theorem rdStartBlock : Statement .rdStartBlock := fun _ => rfl

theorem rdTotalBytes : Statement .rdTotalBytes := fun _ => rfl

theorem rdBytesConsumed : Statement .rdBytesConsumed := fun _ => rfl

theorem rdBlockIndex : Statement .rdBlockIndex := fun _ => rfl

theorem rdCsId : Statement .rdCsId := fun _ => rfl

theorem rdCustomBase : Statement .rdCustomBase := fun _ => rfl

theorem rdCustomLen : Statement .rdCustomLen := fun _ => rfl

theorem rdUnmapped (sel : BitVec 6) : Statement (.rdUnmapped sel) := fun _ => rfl

theorem wrArg0 (d : Word) : Statement (.wrArg0 d) := fun _ => by
  simp [encode, fullWrite, PortInput.format, Instr.format]

theorem wrArg1 (d : Word) : Statement (.wrArg1 d) := fun _ => by
  simp [encode, fullWrite, PortInput.format, Instr.format]

theorem wrIgnored (sel : BitVec 6) (d : Word) : Statement (.wrIgnored sel d) := by
  intro h
  have hs : sel ≠ 0#6 := by
    rintro rfl
    simp [Instr.wf] at h
  simp [encode, fullWrite, PortInput.format, Instr.format, hs]

theorem tick : Statement .tick := fun _ => rfl

theorem stgInitResp (status : Byte) : Statement (.stgInitResp status) := fun _ => rfl

theorem stgLookupResp (status : Byte) (start length : Word) : Statement (.stgLookupResp status start length) := fun _ => rfl

theorem stgReadResp (status : Byte) (data : Vector Byte 512) : Statement (.stgReadResp status data) := fun _ => rfl

end Laws.PortFormat

end Sys2Proof
end

