-- ==== Sys2Proof/Laws/Step.lean ====
section
/-! SUPPORT. What a step can do, said once: every way it answers, and the only way an instruction stops. -/

namespace Sys2Proof.Machine

/-- Every way a step answers a next state. -/
theorem step_cases {s s' : State} (h : step s = .next s') :
    (delivery s.inputs = .nothing ∧ s' = s) ∨
    (∃ rest, delivery s.inputs = .reset rest ∧ s' = (s.taking rest).applyReset) ∨
    (∃ addr rest, delivery s.inputs = .foreignRead addr rest ∧ s' = (s.taking rest).foreignAccess addr) ∨
    (∃ addr rest, delivery s.inputs = .foreignWrite addr rest ∧ s' = (s.taking rest).foreignWrite addr) ∨
    (∃ rest, delivery s.inputs = .quiet rest ∧ s' = s.taking rest) ∨
    (∃ p rest, delivery s.inputs = .port p rest ∧ decode p = .error .partialWrite ∧ s' = s.taking rest) ∨
    (∃ p rest i, delivery s.inputs = .port p rest ∧ decode p = .ok i ∧ exec i (s.taking rest) = .next s') := by
  unfold step at h
  cases hd : delivery s.inputs with
  | nothing => simp only [hd] at h; injection h with h; exact .inl ⟨rfl, h.symm⟩
  | reset rest => simp only [hd] at h; injection h with h; exact .inr (.inl ⟨rest, rfl, h.symm⟩)
  | foreignRead addr rest =>
    simp only [hd] at h; injection h with h; exact .inr (.inr (.inl ⟨addr, rest, rfl, h.symm⟩))
  | foreignWrite addr rest =>
    simp only [hd] at h; injection h with h; exact .inr (.inr (.inr (.inl ⟨addr, rest, rfl, h.symm⟩)))
  | quiet rest => simp only [hd] at h; injection h with h; exact .inr (.inr (.inr (.inr (.inl ⟨rest, rfl, h.symm⟩))))
  | port p rest =>
    cases hp : decode p with
    | ok i => simp only [hd, hp] at h; exact .inr (.inr (.inr (.inr (.inr (.inr ⟨p, rest, i, rfl, hp, h⟩)))))
    | error e =>
      cases e
      simp only [hd, hp] at h
      injection h with h
      exact .inr (.inr (.inr (.inr (.inr (.inl ⟨p, rest, rfl, hp, h.symm⟩)))))

/-- All that a tick can do (R61). -/
theorem execTick_cases (s : State) :
    (s.playing = false ∧ execTick s = .next s) ∨
    (s.playing = true ∧ s.flipAlt.inactivePhase = true ∧ execTick s = .next s.flipAlt) ∨
    (s.playing = true ∧ s.flipAlt.inactivePhase = false ∧ s.occ.toNat < s.unitSize ∧
      execTick s = .next { s.flipAlt with underrun := true }) ∨
    (s.playing = true ∧ s.flipAlt.inactivePhase = false ∧ s.unitSize ≤ s.occ.toNat ∧ s.cap = 0#16 ∧
      execTick s = .fault .ringUnmapped) ∨
    (s.playing = true ∧ s.flipAlt.inactivePhase = false ∧ s.unitSize ≤ s.occ.toNat ∧ s.cap ≠ 0#16 ∧
      execTick s = .next ({ s.flipAlt with
        rd := BitVec.ofNat 16 (s.ringOff s.rd s.unitSize), occ := s.occ - BitVec.ofNat 16 s.unitSize }.emitAll
          (muxOutput s.stereo s.bridge (s.peekBytes s.unitSize)))) := by
  unfold execTick
  cases hp : s.playing with
  | false => simp
  | true =>
    cases hi : s.flipAlt.inactivePhase with
    | true => simp
    | false =>
      have hk : s.flipAlt.peekBytes s.unitSize = s.peekBytes s.unitSize := rfl
      have hu : s.flipAlt.unitSize = s.unitSize := rfl
      rcases s.flipAlt.tryPeekConsume_cases s.unitSize with ⟨h, e⟩ | ⟨h, hc, e⟩ | ⟨h, hc, e⟩
      · refine .inr (.inr (.inl ⟨rfl, rfl, h, ?_⟩)); simp [State.outputUnit, hu, e]
      · refine .inr (.inr (.inr (.inl ⟨rfl, rfl, h, hc, ?_⟩))); simp [State.outputUnit, hu, e]
      · refine .inr (.inr (.inr (.inr ⟨rfl, rfl, h, hc, ?_⟩)))
        simp only [State.outputUnit, hu, e, hk, Bool.not_true, Bool.false_eq_true, if_false]
        rfl

/-- All that a read response can do (R68, R96). -/
theorem execStgReadResp_cases (status : Byte) (data : Vector Byte 512) (s : State) :
    (s.pendKind ≠ .read ∧ execStgReadResp status data s = .next s) ∨
    (s.pendKind = .read ∧ status = 0#8 ∧ s.cap = 0#16 ∧ execStgReadResp status data s = .fault .ringUnmapped) ∨
    (s.pendKind = .read ∧ status = 0#8 ∧ s.cap ≠ 0#16 ∧ execStgReadResp status data s =
      .next { (s.unpend.writeRegion s.wr data.toList).commitProduce s.commitLength with
        consumed := s.consumed + BitVec.ofNat 32 s.commitLength }.succeed) ∨
    (s.pendKind = .read ∧ status ≠ 0#8 ∧ execStgReadResp status data s =
      .next ((s.unpend.forgetRegion s.wr Config.block).doStop.fail 4 status)) := by
  unfold execStgReadResp
  by_cases hk : s.pendKind = .read
  · by_cases hs : status = 0#8
    · by_cases hc : s.cap = 0#16 <;> simp [hk, hs, hc]
    · simp [hk, hs]
  · simp [hk]

/-- All that a REFILL can do (R67). -/
theorem execRefill_cases (s : State) :
    (s.busy = true ∧ execRefill s = .next s) ∨
    (s.busy = false ∧ s.total = 0#32 ∧ execRefill s = .next s.succeed) ∨
    (s.busy = false ∧ s.total ≠ 0#32 ∧ s.consumed.toNat < s.total.toNat ∧ (s.cap - s.occ).toNat < Config.block ∧
      execRefill s = .next s.succeed) ∨
    (s.busy = false ∧ s.total ≠ 0#32 ∧ s.consumed.toNat < s.total.toNat ∧ Config.block ≤ (s.cap - s.occ).toNat ∧
      execRefill s = .next ({ (s.forgetRegion s.wr Config.block).emit (.stgRead s.blkIdx s.wr) with
        blkIdx := s.blkIdx + 1 }.pend .read)) ∨
    (s.busy = false ∧ s.total ≠ 0#32 ∧ s.total.toNat ≤ s.consumed.toNat ∧ s.occ.toNat ≤ 1 ∧
      execRefill s = .next s.doStop.succeed) ∨
    (s.busy = false ∧ s.total ≠ 0#32 ∧ s.total.toNat ≤ s.consumed.toNat ∧ 2 ≤ s.occ.toNat ∧
      execRefill s = .next s.succeed) := by
  cases hb : s.busy with
  | true => exact .inl ⟨rfl, State.whenIdle_busy hb _⟩
  | false =>
    rw [execRefill, State.whenIdle_idle hb]
    right
    by_cases ht : s.total = 0#32
    · exact .inl ⟨rfl, ht, if_pos ht⟩
    right
    rw [if_neg ht]
    by_cases hc : s.consumed < s.total
    · rw [if_pos hc]
      rcases s.reserveProduce_cases Config.block with ⟨hr, e⟩ | ⟨hr, e⟩ <;> rw [e]
      · exact .inl ⟨rfl, ht, hc, hr, rfl⟩
      · exact .inr (.inl ⟨rfl, ht, hc, hr, rfl⟩)
    · rw [if_neg hc]
      have hc' : s.total.toNat ≤ s.consumed.toNat := Nat.le_of_not_lt hc
      by_cases ho : s.occ.toNat ≤ 1
      · exact .inr (.inr (.inl ⟨rfl, ht, hc', ho, if_pos ho⟩))
      · exact .inr (.inr (.inr ⟨rfl, ht, hc', Nat.lt_of_not_le ho, if_neg ho⟩))

/-- The only way an instruction stops: a tick or a read response that needs a byte of a ring of capacity 0 (log 8). -/
theorem exec_next_or_unmapped (i : Instr) (s : State) :
    (∃ s', exec i s = .next s') ∨ (exec i s = .fault .ringUnmapped ∧ s.cap = 0#16) := by
  cases i with
  | tick =>
    rcases execTick_cases s with ⟨_, e⟩ | ⟨_, _, e⟩ | ⟨_, _, _, e⟩ | ⟨_, _, _, hc, e⟩ | ⟨_, _, _, _, e⟩
    · exact .inl ⟨_, e⟩
    · exact .inl ⟨_, e⟩
    · exact .inl ⟨_, e⟩
    · exact .inr ⟨e, hc⟩
    · exact .inl ⟨_, e⟩
  | stgReadResp status data =>
    rcases execStgReadResp_cases status data s with ⟨_, e⟩ | ⟨_, _, hc, e⟩ | ⟨_, _, _, e⟩ | ⟨_, _, e⟩
    · exact .inl ⟨_, e⟩
    · exact .inr ⟨e, hc⟩
    · exact .inl ⟨_, e⟩
    · exact .inl ⟨_, e⟩
  | init mode =>
    left
    simp only [exec, execInit, State.whenIdle]
    split
    · exact ⟨_, rfl⟩
    · split
      · exact ⟨_, rfl⟩
      · split <;> exact ⟨_, rfl⟩
  | refill =>
    left
    simp only [exec, execRefill, State.whenIdle]
    repeat' split
    all_goals exact ⟨_, rfl⟩
  | setBuffer | selectFile | play | illegal | deinit | setCs | pause | stop =>
    left
    simp only [exec, execSetBuffer, execSelectFile, execPlay, execIllegal, execDeinit, execSetCs, execPause, execStop,
      State.whenIdle]
    repeat' split
    all_goals exact ⟨_, rfl⟩
  | stgInitResp | stgLookupResp =>
    left
    simp only [exec, execStgInitResp, execStgLookupResp, State.whenPending]
    repeat' split
    all_goals exact ⟨_, rfl⟩
  | rdCmd | rdArg0 | rdArg1 | rdStatus | rdUnderrun | rdLasterr | rdMode | rdCapacity | rdOccupied | rdRdPtr | rdWrPtr
  | rdStartBlock | rdTotalBytes | rdBytesConsumed | rdBlockIndex | rdCsId | rdCustomBase | rdCustomLen | rdUnmapped
  | wrArg0 | wrArg1 | wrIgnored => exact .inl ⟨_, rfl⟩

theorem decodeCommand_isCommand (w : Word) : isCommand (decodeCommand w) = true := by
  unfold decodeCommand decodePlainCommand
  repeat' split
  all_goals rfl

/-- Every command is guarded by `BUSY = 0` (R51). -/
theorem exec_command_busy {i : Instr} {s : State} (hi : isCommand i = true) (h : s.busy = true) : exec i s = .next s := by
  cases i with
  | init mode => exact if_pos h
  | deinit => exact if_pos h
  | setBuffer => exact if_pos h
  | setCs id => exact if_pos h
  | selectFile => exact if_pos h
  | play => exact if_pos h
  | pause => exact if_pos h
  | stop => exact if_pos h
  | refill => exact if_pos h
  | illegal w => exact if_pos h
  | rdCmd | rdArg0 | rdArg1 | rdStatus | rdUnderrun | rdLasterr | rdMode | rdCapacity | rdOccupied | rdRdPtr | rdWrPtr
  | rdStartBlock | rdTotalBytes | rdBytesConsumed | rdBlockIndex | rdCsId | rdCustomBase | rdCustomLen | rdUnmapped
  | wrArg0 | wrArg1 | wrIgnored | tick | stgInitResp | stgLookupResp | stgReadResp => simp [isCommand] at hi

/-- A tick that finds `PLAYING` = 0 does nothing (R61). -/
theorem execTick_notPlaying {s : State} (h : s.playing = false) : execTick s = .next s := if_pos (by simp [h])

end Sys2Proof.Machine
end

