-- ==== Sys2Proof/Tests/Slice0.lean ====
section
/-! SUPPORT. The tests, with expected results from spec/95_test_vectors.md (the vector's id stands in the docstring) or by hand
from the rule named, and a witness for the hypotheses of every statement. -/

namespace Sys2Proof.Tests

open Sys2Proof.Machine

/-! ### Helpers -/

/-- The next state, where there is one. -/
def run (i : Instr) (s : State) : Option State :=
  match exec i s with
  | .next t => some t
  | .fault _ | .refused _ => none

/-- The next state of a step, where there is one. -/
def runStep (s : State) : Option State :=
  match step s with
  | .next t => some t
  | .fault _ | .refused _ => none

/-- What the events of one cycle leave to arrive. -/
def arrive (s : State) (p : PortInput) : State := { s with inputs := [Arrival.only p] }

/-- The word of a CSR read's answer. -/
def answerOf (i : Instr) (s : State) : Option (List Output) := (run i s).map fun t => t.outs

/-- The base state S0 of 95: Stopped, `C` = 1024, file of 1500 bytes at block 0x100, nothing in the ring. -/
def s0 : State := { State.reset with
  initDone := true, cap := 1024, startBlock := 0x100, total := 1500, blkIdx := 0x100, arg0 := 7 }

/-- S0 Playing (CT4). -/
def playing : State := { s0 with playing := true, stopped := false, tickEn := true }

/-- S0 Paused (CT9). -/
def paused : State := { s0 with stopped := false, tickEn := true }

/-- S0 Playing with the first block in the ring and three bytes of it known. -/
def filled : State := { playing with
  consumed := 512, blkIdx := 0x101, wr := 512, occ := 512, ram := [(0, 0x7F), (1, 0x20), (2, 0x30)] }

/-- S0 with a read of the first block pending (PR2). -/
def reading : State := { s0 with busy := true, pendKind := .read, blkIdx := 0x101 }

/-- After a lookup was asked for (CT13, from S0). -/
def looking : State := { s0 with busy := true, pendKind := .lookup, total := 0 }

/-- After INIT, while the storage is awaited (CT17). -/
def initializing : State := { State.reset with busy := true, pendKind := .init, pendCap := 1024 }

/-- A block of data: byte 0 is 0x11, every other byte 0. -/
def oneBlock : Vector Byte 512 := (Vector.replicate 512 0).set 0 0x11

/-! ### Well-formedness: each check refuses an ill-formed term -/

theorem test_wf_refuses_legal_word_as_illegal : (Instr.illegal 0x00000006).wf = false := by decide
theorem test_wf_refuses_mapped_offset_as_unmapped : (Instr.rdUnmapped 0x11).wf = false := by decide
theorem test_wf_refuses_argument_offset_as_ignored : (Instr.wrIgnored 0x02 0).wf = false := by decide
theorem test_wf_admits_illegal_words :
    (Instr.illegal 0).wf = true ∧ (Instr.illegal 0x106).wf = true ∧ (Instr.illegal 0x80000008).wf = true := by decide

/-! ### Decoding: words written out from R48, offsets from R22 -/

/-- E1 to E14. -/
theorem test_decode_commands :
    decode (commandWrite 0x00000301) = .ok (.init 0x03) ∧ decode (commandWrite 0x00000002) = .ok .deinit ∧
    decode (commandWrite 0x00000003) = .ok .setBuffer ∧ decode (commandWrite 0x0000FF04) = .ok (.setCs 0xFF) ∧
    decode (commandWrite 0x00000005) = .ok .selectFile ∧ decode (commandWrite 0x00000006) = .ok .play ∧
    decode (commandWrite 0x00000007) = .ok .pause ∧ decode (commandWrite 0x00000008) = .ok .stop ∧
    decode (commandWrite 0x00000009) = .ok .refill := by decide

/-- E8 to E13. -/
theorem test_decode_illegal_words :
    decode (commandWrite 0x00000000) = .ok (.illegal 0x00000000) ∧ decode (commandWrite 0x0000000A) = .ok (.illegal 0x0000000A) ∧
    decode (commandWrite 0x000000FF) = .ok (.illegal 0x000000FF) ∧ decode (commandWrite 0x00000106) = .ok (.illegal 0x00000106) ∧
    decode (commandWrite 0x00010001) = .ok (.illegal 0x00010001) ∧ decode (commandWrite 0x80000008) = .ok (.illegal 0x80000008) := by decide

/-- R22's offsets. -/
theorem test_decode_reads_low :
    decode (.csr (.read 0x00 0xF)) = .ok .rdCmd ∧ decode (.csr (.read 0x04 0xF)) = .ok .rdArg0 ∧
    decode (.csr (.read 0x08 0xF)) = .ok .rdArg1 ∧ decode (.csr (.read 0x0C 0xF)) = .ok .rdStatus ∧
    decode (.csr (.read 0x10 0xF)) = .ok .rdUnderrun ∧ decode (.csr (.read 0x14 0xF)) = .ok .rdLasterr ∧
    decode (.csr (.read 0x18 0xF)) = .ok .rdMode ∧ decode (.csr (.read 0x1C 0xF)) = .ok .rdCapacity ∧
    decode (.csr (.read 0x20 0xF)) = .ok .rdOccupied := by decide

/-- R22's offsets. -/
theorem test_decode_reads_high :
    decode (.csr (.read 0x24 0xF)) = .ok .rdRdPtr ∧ decode (.csr (.read 0x28 0xF)) = .ok .rdWrPtr ∧
    decode (.csr (.read 0x2C 0xF)) = .ok .rdStartBlock ∧ decode (.csr (.read 0x30 0xF)) = .ok .rdTotalBytes ∧
    decode (.csr (.read 0x34 0xF)) = .ok .rdBytesConsumed ∧ decode (.csr (.read 0x38 0xF)) = .ok .rdBlockIndex ∧
    decode (.csr (.read 0x3C 0xF)) = .ok .rdCsId ∧ decode (.csr (.read 0x40 0xF)) = .ok .rdCustomBase ∧
    decode (.csr (.read 0x44 0xF)) = .ok .rdCustomLen := by decide

/-- E18 (bits 1:0 ignored), and the unmapped offsets of R22. -/
theorem test_decode_reads_unmapped :
    decode (.csr (.read 0x0E 0x0)) = .ok .rdStatus ∧
    decode (.csr (.read 0x48 0xF)) = .ok (.rdUnmapped 0x12) ∧
    decode (.csr (.read 0xFC 0xF)) = .ok (.rdUnmapped 0x3F) := by decide

/-- R52, R87, R88; E16 and E17. -/
theorem test_decode_writes :
    decode (registerWrite 0x04 0x20000000) = .ok (.wrArg0 0x20000000) ∧
    decode (registerWrite 0x08 1500) = .ok (.wrArg1 1500) ∧
    decode (registerWrite 0x0C 5) = .ok (.wrIgnored 0x03 5) ∧
    decode (registerWrite 0xFC 5) = .ok (.wrIgnored 0x3F 5) ∧
    decode (registerWrite 0x01 0x00000008) = .ok .stop ∧
    decode (.csr (.write 0x00 0x1 (Lanes.ofWord 0x00000008))) = .error .partialWrite := by decide

/-- R53. -/
theorem test_decode_events :
    decode .tick = .ok .tick ∧ decode (.stg (.init 0x11)) = .ok (.stgInitResp 0x11) ∧
    decode (.stg (.lookup 0 0x100 1500)) = .ok (.stgLookupResp 0 0x100 1500) ∧
    ∀ st d, decode (.stg (.read st d)) = .ok (.stgReadResp st d) :=
  ⟨by decide, by decide, by decide, fun _ _ => rfl⟩

/-- R31: lane `k` carries bits `8k+7 : 8k`. -/
theorem test_lanes_little_endian :
    Lanes.ofWord 0x44332211 = { lane0 := 0x11, lane1 := 0x22, lane2 := 0x33, lane3 := 0x44 } := by decide

/-- The numbering of spec/opcode_table.json. -/
theorem test_decode_table_words :
    decodeTableWord 32 0x00000301 = some (.init 0x03) ∧ decodeTableWord 8 0x0C = some .rdStatus ∧
    decodeTableWord 40 0x11223304 = some (.wrArg0 0x112233) ∧ decodeTableWord 0 0 = some .tick ∧
    decodeTableWord 72 0x000005DC0000010000 = some (.stgLookupResp 0 0x100 1500) ∧
    decodeTableWord 16 0 = none := by decide

/-- A placed word is the instruction that the next step runs. -/
theorem test_fetch_word_runs_next :
    runStep (State.reset.withFetchWord 32 0x00000304) =
      some { State.reset with csId := 3, draws := 1 } := by decide

/-! ### Control commands -/

/-- CT17: INIT from reset. -/
theorem test_init_asks_storage :
    (run (.init 0) State.reset).map (fun t => (t.outs, t.pendCap, t.pendMode, t.statusWord)) =
      some ([.stgInit 0], 1024, 0, 0x00000432) := by decide

/-- CT22, CT20, CT21: the mode is checked before the buffer. -/
theorem test_init_check_order :
    (run (.init 0x08) { State.reset with cfg := { internalBufBytes := 0, addrW := 32 } }).map (·.lasterrWord) = some 0x105 ∧
    (run (.init 0) { State.reset with cfg := { internalBufBytes := 0, addrW := 32 } }).map (·.lasterrWord) = some 0x101 ∧
    (run (.init 0) { State.reset with cfg := { internalBufBytes := 1000, addrW := 32 } }).map (·.lasterrWord) =
      some 0x102 := by decide

/-- CT18, CT19. -/
theorem test_init_response :
    (run (.stgInitResp 0) initializing).map (fun t => (t.statusWord, t.cap)) = some (0x0000002A, 1024) ∧
    (run (.stgInitResp 0x11) initializing).map (fun t => (t.statusWord, t.lasterrWord, t.cap)) =
      some (0x00000002, 0x211, 0) := by decide

/-- CT23, CT24: the capacity is truncated to blocks and bounded. -/
theorem test_init_capacity :
    capacityOf 1500 = 1024 ∧ capacityOf 100000 = 65024 ∧ capacityOf 1024 = 1024 ∧ capacityOf 1535 = 1024 ∧
    capacityOf 1536 = 1536 ∧ capacityOf 70000 = 65024 := by decide

/-- CT27. -/
theorem test_deinit :
    (run .deinit { playing with underrun := true, errClass := 3, errCode := 5, csId := 3, customLen := 1024 }).map
      (fun t => ((t.statusWord, t.underrun, t.lasterrWord), t.csId, t.customLen, t.cap)) =
      some ((0x00000022, true, 0x305), 3, 1024, 0) := by decide

/-- CT29, CT31. -/
theorem test_set_buffer :
    (run .setBuffer { State.reset with arg0 := 0x20000000, arg1 := 1500 }).map (fun t => (t.customBase, t.customLen)) =
      some (0x20000000, 1024) ∧
    (run .setBuffer { State.reset with arg0 := 0x3000, arg1 := 1023, customLen := 1024 }).map
      (fun t => (t.lasterrWord, t.customBase, t.customLen)) = some (0x102, 0, 1024) := by decide

/-- R80: the base is the low `ADDR_W` bits of `ARG0`. -/
theorem test_set_buffer_base_width :
    (run .setBuffer { State.reset with
      cfg := { internalBufBytes := 1024, addrW := 16 }, arg0 := 0x20001234, arg1 := 1024 }).map (·.customBase) =
      some 0x1234 := by decide

/-- CT34. -/
theorem test_set_cs : (run (.setCs 3) State.reset).map (fun t => (t.csId, t.result)) = some (3, true) := by decide

/-- CT13, CT12. -/
theorem test_select_file :
    (run .selectFile { playing with arg0 := 9 }).map (fun t => (t.outs, t.total, t.blkIdx, t.pendKind, t.stopped)) =
      some ([.stgLookup 9], 0, 0x100, .lookup, true) ∧
    (run .selectFile State.reset).map (fun t => (t.outs, t.lasterrWord)) = some ([], 0x103) := by decide

/-- CT14, CT15. -/
theorem test_lookup_response :
    (run (.stgLookupResp 0 0x40 512) looking).map (fun t => (t.startBlock, t.total, t.blkIdx, t.result)) =
      some (0x40, 512, 0x40, true) ∧
    (run (.stgLookupResp 0x05 0 0) looking).map (fun t => (t.lasterrWord, t.result, t.total, t.startBlock)) =
      some (0x305, false, 0, 0x100) := by decide

/-- CT4, CT5, CT6. -/
theorem test_play :
    (run .play s0).map (·.statusWord) = some 0x000000E9 ∧ (run .play State.reset).map (·.lasterrWord) = some 0x103 ∧
    (run .play { s0 with total := 0 }).map (·.lasterrWord) = some 0x104 := by decide

/-- CT7, CT8: from Playing it rewinds, from Paused it resumes. -/
theorem test_play_restart_and_resume :
    (run .play { playing with rd := 100, occ := 300, wr := 400, consumed := 512 }).map
      (fun t => (t.rd, t.occ, t.wr, t.consumed, t.blkIdx)) = some (0, 0, 0, 0, 0x100) ∧
    (run .play { paused with rd := 212, occ := 300, wr := 512 }).map (fun t => (t.rd, t.occ, t.playing)) =
      some (212, 300, true) := by decide

/-- CT9, CT10, CT11. -/
theorem test_pause :
    (run .pause playing).map (·.statusWord) = some 0x000000EC ∧ (run .pause paused).map (·.playing) = some true ∧
    (run .pause s0) = some s0 := by decide

/-- CT1. -/
theorem test_stop :
    (run .stop { playing with rd := 100, wr := 612, occ := 512, consumed := 1024, blkIdx := 0x102 }) =
      some { s0 with tickEn := true } := by decide

/-- E9, E15. -/
theorem test_illegal :
    (run (.illegal 0x0A) s0).map (fun t => (t.lasterrWord, t.result)) = some (0x106, false) ∧
    run (.illegal 0x0A) reading = some reading := by decide

/-! ### The refill sequencer -/

/-- PR2, PR3. -/
theorem test_refill :
    (run .refill s0).map (fun t => (t.outs, t.blkIdx, t.statusWord)) = some ([.stgRead 0x100 0], 0x101, 0x00000CBA) ∧
    (run .refill { playing with consumed := 1024, rd := 511, occ := 513, blkIdx := 0x102 }).map (·.outs) = some [] := by
  decide

/-- R21: what a REFILL reserves is not known from then on, and what lies outside is left. -/
theorem test_refill_gives_region_to_storage :
    (run .refill { s0 with ram := [(0, 0x01), (511, 0x02), (512, 0x03)] }).map (·.ram) = some [(512, 0x03)] := by decide +kernel

/-- PR5, PR6: the end of the stream. -/
theorem test_refill_end_of_stream :
    (run .refill { playing with consumed := 1500, occ := 2, blkIdx := 0x103 }).map (·.playing) = some true ∧
    (run .refill { playing with consumed := 1500, occ := 1, blkIdx := 0x103 }) = some { s0 with tickEn := true } := by
  decide

/-- PR9's counters, PR10, PR13. -/
theorem test_read_response :
    (run (.stgReadResp 0 oneBlock) { reading with consumed := 1024, occ := 512, blkIdx := 0x103 }).map
      (fun t => (t.wr, t.occ, t.consumed, t.busy)) = some (476, 988, 1500, false) ∧
    (run (.stgReadResp 0x2A oneBlock) reading).map (fun t => (t.lasterrWord, t.result, t.occ, t.blkIdx)) =
      some (0x42A, false, 0, 0x100) ∧
    (run (.stgReadResp 0 oneBlock) s0) = some s0 := by decide

/-- R68's addresses, on three bytes: the region wraps at `C`. -/
theorem test_write_region_wraps :
    (s0.writeRegion 1023 [0x0A, 0x0B, 0x0C]).ram = [(0, 0x0B), (1, 0x0C), (1023, 0x0A)] := by decide

/-- P6's placement: an external ring lies at its base (R29). -/
theorem test_write_region_external :
    ({ s0 with bufCustom := true, bufBase := 0x20000000 }.writeRegion 0 [0x0A]).ext = [(0x20000000, 0x0A)] := by decide

/-! ### The consumer -/

/-- TK1, TK3. -/
theorem test_tick_mono :
    (run .tick { playing with occ := 3, ram := [(0, 0x7F)] }).map (fun t => (t.outs, t.rd, t.occ)) =
      some ([.dutyWrite .ch1 0x7F], 1, 2) ∧
    (run .tick playing) = some { playing with underrun := true } := by decide

/-- TK8, TK10: stereo wraps at `C`, bridge sends one byte twice. -/
theorem test_tick_two_channels :
    (run .tick { playing with stereo := true, rd := 1023, occ := 2, ram := [(0, 0x05), (1023, 0xA0)] }).map
      (fun t => (t.outs, t.rd, t.occ)) = some ([.dutyWrite .ch1 0xA0, .dutyWrite .ch2 0x05], 1, 0) ∧
    (run .tick { playing with bridge := true, rd := 5, occ := 1, ram := [(5, 0xC8)] }).map (fun t => (t.outs, t.rd)) =
      some ([.dutyWrite .ch1 0xC8, .dutyWrite .ch2 0xC8], 6) := by decide

/-- TK4, TK6. -/
theorem test_tick_half_rate :
    (run .tick { playing with halfRate := true, rd := 10, occ := 5, ram := [(10, 0x33)] }).map
      (fun t => (t.outs, t.alt, t.rd)) = some ([.dutyWrite .ch1 0x33], true, 11) ∧
    (run .tick { playing with halfRate := true, alt := true }) = some { playing with halfRate := true } := by decide

/-! ### Queries and register accesses -/

/-- Q2, Q14 and Q16. -/
theorem test_read_status :
    answerOf .rdStatus s0 = some [.csrData (Lanes.ofWord 0x000000AA)] ∧
    answerOf .rdStatus looking = some [.csrData (Lanes.ofWord 0x0000083A)] ∧
    answerOf .rdStatus { playing with halfRate := true, alt := true } = some [.csrData (Lanes.ofWord 0x000001E9)] := by
  decide

/-- Q5. -/
theorem test_read_underrun :
    run .rdUnderrun { s0 with underrun := true } = some { s0 with outs := [.csrData (Lanes.ofWord 1)] } := by decide

/-- Q6. -/
theorem test_read_lasterr :
    run .rdLasterr { s0 with errClass := 4, errCode := 0x2A } =
      some { s0 with outs := [.csrData (Lanes.ofWord 0x42A)] } := by decide

/-- P3 step 2: MODE. -/
theorem test_read_mode :
    answerOf .rdMode { s0 with halfRate := true, stereo := true } = some [.csrData (Lanes.ofWord 3)] := by decide

/-- R85: each plain register returns its own field. -/
theorem test_read_plain :
    let s : State := { s0 with
      arg0 := 1, arg1 := 2, cap := 3, occ := 4, rd := 5, wr := 6, startBlock := 7, total := 8, consumed := 9, blkIdx := 10
      csId := 11, customBase := 12, customLen := 13 }
    [Instr.rdArg0, .rdArg1, .rdCapacity, .rdOccupied, .rdRdPtr, .rdWrPtr, .rdStartBlock, .rdTotalBytes, .rdBytesConsumed,
      .rdBlockIndex, .rdCsId, .rdCustomBase, .rdCustomLen].map (fun i => answerOf i s) =
      (List.range 13).map fun k => some [.csrData (Lanes.ofWord (BitVec.ofNat 32 (k + 1)))] := by decide

/-- Q9, Q10. -/
theorem test_read_zero :
    run .rdCmd s0 = some { s0 with outs := [.csrData (Lanes.ofWord 0)] } ∧
    run (.rdUnmapped 0x12) s0 = some { s0 with outs := [.csrData (Lanes.ofWord 0)] } := by decide

/-- Q11, Q12, and R87 while busy. -/
theorem test_writes :
    run (.wrArg0 7) reading = some { reading with arg0 := 7 } ∧ run (.wrArg1 1500) s0 = some { s0 with arg1 := 1500 } ∧
    run (.wrIgnored 0x08 5) { s0 with occ := 988 } = some { s0 with occ := 988 } := by decide

/-! ### The order of one clock cycle, and the inputs that are no instruction -/

/-- AG1: the TICK first, then the read. -/
theorem test_same_cycle_tick_then_read :
    ((runStep { playing with inputs := [.cycle true none (some (.read 0x10 0xF))] }).bind runStep).map
      (fun t => (t.outs, t.underrun, t.inputs)) = some ([.csrData (Lanes.ofWord 1)], false, []) := by decide

/-- AG5: the response first, then PLAY. -/
theorem test_same_cycle_response_then_play :
    ((runStep { initializing with
      inputs := [.cycle false (some (.init 0)) (some (.write 0x00 0xF (Lanes.ofWord 0x00000006)))] }).bind runStep).map
      (fun t => (t.initDone, t.lasterrWord)) = some (true, 0x104) := by decide

/-- R43: another agent's write to the block's buffer makes every byte sent from it any value, until an INIT completes; a
write outside it, or to memory that the block does not own, does not. -/
theorem test_foreign_write :
    (let s : State := { s0 with bufCustom := true, bufBase := 0x1000 }
     (s.foreignWrite 0x1001).bufForeign = true ∧ (s.foreignWrite 0x0FFF).bufForeign = false ∧
     (run (.stgInitResp 0) { initializing with bufForeign := true }).map (·.bufForeign) = some false ∧
     (State.foreignWrite { s with initDone := false } 0x1001).bufForeign = false) := by decide +kernel

/-- R97: so does its read, which changes no byte. -/
theorem test_foreign_read :
    (let s : State := { s0 with bufCustom := true, bufBase := 0x1000, ext := [(0x1001, 0x22)] }
     (runStep { s with inputs := [.foreignRead 0x1001] }) = some { s with bufForeign := true, draws := 1 } ∧
     (runStep { s with inputs := [.foreignRead 0x0FFF] }) = some { s with draws := 1 }) := by decide +kernel

/-- E16, R104, R43: a partial write, a reset, and a foreign write. -/
theorem test_other_arrivals :
    (runStep { playing with inputs := [.cycle false none (some (.write 0x00 0x1 (Lanes.ofWord 0x00000008)))] }) =
      some { playing with draws := 1 } ∧
    (runStep { reading with inputs := [.reset] }) = some { State.reset with draws := 1 } ∧
    (runStep { s0 with ext := [(1, 0x22), (2, 0x33)], inputs := [.foreignWrite 2] }).map (·.ext) = some [(1, 0x22)] := by
  decide

/-! ### Witnesses: concrete states and operands that meet the hypotheses of each statement, clause by clause -/

/-- The invariant of a concrete state, by evaluation. -/
theorem inv_of (s : State) (h1 : s.occ.toNat ≤ s.cap.toNat := by decide)
    (h2 : s.cap ≠ 0#16 → s.rd.toNat < s.cap.toNat ∧ s.wr.toNat < s.cap.toNat ∧
      s.wr.toNat = (s.rd.toNat + s.occ.toNat) % s.cap.toNat := by decide)
    (h3 : s.cap = 0#16 → s.rd = 0#16 ∧ s.wr = 0#16 ∧ s.occ = 0#16 := by decide)
    (h4 : s.cap = 0#16 ∨ s.cap.toNat % 512 = 0 ∧ 1024 ≤ s.cap.toNat ∧ s.cap.toNat ≤ 65024 := by decide)
    (h5 : s.cap = 0#16 ↔ s.initDone = false := by decide) (h6 : ¬(s.playing = true ∧ s.stopped = true) := by decide)
    (h7 : s.initDone = false → s.stopped = true ∧ s.playing = false ∧ s.total = 0#32 := by decide)
    (h8 : s.playing = true → s.tickEn = true := by decide) (h9 : s.consumed.toNat ≤ s.total.toNat := by decide)
    (h10 : s.consumed.toNat < s.total.toNat → s.wr.toNat % 512 = 0 ∧ s.consumed.toNat % 512 = 0 := by decide)
    (h11 : s.busy = true ↔ s.pendKind ≠ .none := by decide)
    (h12 : s.pendKind = .read → 512 ≤ s.cap.toNat - s.occ.toNat := by decide)
    (h13 : s.busy = false → s.total ≠ 0#32 →
      s.blkIdx = s.startBlock + BitVec.ofNat 32 (blocksOf s.consumed.toNat) := by decide)
    (h14 : s.customLen = 0#16 ∨ s.customLen.toNat % 512 = 0 ∧ 1024 ≤ s.customLen.toNat ∧ s.customLen.toNat ≤ 65024 := by
      decide)
    (h15 : s.pendKind = .init → s.initDone = false ∧ (s.pendCap.toNat % 512 = 0 ∧ 1024 ≤ s.pendCap.toNat ∧
      s.pendCap.toNat ≤ 65024) ∧ (s.pendCustom = false → s.pendCap.toNat ≤ s.cfg.internalBufBytes) := by decide)
    (h16 : s.pendKind = .lookup → s.initDone = true ∧ s.playing = false ∧ s.total = 0#32 ∧
      s.rd = 0#16 ∧ s.wr = 0#16 ∧ s.occ = 0#16 := by decide)
    (h17 : s.pendKind = .read → s.consumed.toNat < s.total.toNat ∧
      s.blkIdx = s.startBlock + BitVec.ofNat 32 (s.consumed.toNat / 512) + 1 := by decide)
    (h18 : s.customBase.toNat < s.extSize ∧ s.pendBase.toNat < s.extSize ∧ s.bufBase.toNat < s.extSize := by decide)
    (h19 : s.bufCustom = false → s.cap.toNat ≤ s.cfg.internalBufBytes := by decide)
    (h20 : s.stopped = false → s.tickEn = true := by decide) (h21 : s.halfRate = false → s.alt = false := by decide)
    (h22 : Memory.wf s.ram ∧ Memory.wf s.ext := by decide)
    (h24 : s.pendKind = .read → ∀ k, k < 512 → Memory.get? s.bufMem (s.bufKey (s.ringOff s.wr k)) = none := by decide)
    (h23 : (∀ c ∈ s.ram, c.1 < s.cfg.internalBufBytes) ∧ ∀ c ∈ s.ext, c.1 < s.extSize := by decide) : Inv s :=
  ⟨⟨h1, h2, h3, h4, h5, h6, h7, h8, h9, h10, h11, h12, h13, h14⟩, h15, h16, h17, h18, h19, h20, h21, h24, h22, h23⟩

/-- Where the ring has a capacity, no instruction stops. -/
theorem goes_on (i : Instr) (s : State) (h : s.cap ≠ 0#16 := by decide) : ∃ t, exec i s = .next t := by
  rcases exec_next_or_unmapped i s with h1 | h1
  · exact h1
  · exact absurd h1.2 h

/-- Where the ring has a capacity, no instruction that a step decodes stops it. -/
theorem step_goes_on {s : State} {p : PortInput} {rest : List Arrival} (i : Instr) (hd : delivery s.inputs = .port p rest)
    (hp : decode p = .ok i) (h : s.cap ≠ 0#16 := by decide) : ∃ t, step s = .next t := by
  obtain ⟨t, ht⟩ := goes_on i (s.taking rest) h
  exact ⟨t, by simp only [step, hd, hp, ht]⟩

/-- `filled` with an external ring. -/
def external : State := { filled with
  bufCustom := true, bufBase := 0xFFFFFC00, ram := [], ext := [(0xFFFFFC00, 0x7F), (0xFFFFFFFF, 0x01)] }

/-- A write with partial byte enables. -/
def partialStop : PortInput := .csr (.write 0x00 0x7 (Lanes.ofWord 0x00000008))

theorem witness_DecodeEncodeAgree :
    (Instr.init 0xFF).wf = true ∧ (Instr.illegal 0xFFFFFFFF).wf = true ∧ (Instr.illegal 0x0A).wf = true ∧
    (Instr.rdUnmapped 0x12).wf = true ∧ (Instr.rdUnmapped 0x3F).wf = true ∧ (Instr.wrIgnored 0x03 0).wf = true ∧
    (Instr.wrIgnored 0x3F 0xFFFFFFFF).wf = true := by decide

theorem witness_DecodedInstructionsAreWellFormed :
    decode (registerWrite 0x0C 0) = .ok (.wrIgnored 0x03 0) ∧ decode (.csr (.read 0x48 0)) = .ok (.rdUnmapped 0x12) := by
  decide

theorem witness_CsrAccessWidthAndAlignment :
    0x0C#8 &&& 0xFC#8 = 0x0F#8 &&& 0xFC#8 ∧
    delivery (arrive s0 partialStop).inputs = .port partialStop [] ∧ 0x7#4 ≠ 0xF#4 ∧
    delivery (arrive s0 (.csr (.read 0xFF 0x0))).inputs = .port (.csr (.read 0xFF 0x0)) [] := by decide

theorem witness_StepRunsDecodedInstruction :
    delivery (arrive s0 (commandWrite 0x06)).inputs = .port (commandWrite 0x06) [] ∧
    decode (commandWrite 0x06) = .ok .play := by decide

theorem witness_ParametersNeverChange : step s0 = .next s0 := rfl

theorem witness_RingOperationsFollowTheirContracts :
    s0.occ.toNat < 1 ∧ 512 ≤ filled.occ.toNat ∧ filled.cap ≠ 0#16 := by decide

theorem witness_RingIsAQueueOfTheBlocksBytes :
    (Inv filled ∧ filled.bufUnreliable = false ∧ ∃ t, exec .tick filled = .next t) ∧
    (Inv external ∧ external.bufUnreliable = false ∧ ∃ t, exec .tick external = .next t) ∧
    (Inv { filled with stereo := true } ∧ State.bufUnreliable { filled with stereo := true } = false ∧
      ∃ t, exec .tick { filled with stereo := true } = .next t) ∧
    (Inv reading ∧ reading.bufWraps = false ∧ reading.pendKind = .read ∧
      ∃ t, exec (.stgReadResp 0 oneBlock) reading = .next t) :=
  ⟨⟨inv_of _, by decide, goes_on _ _⟩, ⟨inv_of _, by decide, goes_on _ _⟩, ⟨inv_of _, by decide, goes_on _ _⟩,
    ⟨inv_of _ (h24 := fun _ _ _ => rfl), by decide, by decide, goes_on _ _⟩⟩

theorem witness_OccupancyChangesInThreeWays :
    (∃ t, exec .tick filled = .next t) ∧ (∃ t, exec (.stgReadResp 0 oneBlock) reading = .next t) ∧
    ∃ t, exec .stop filled = .next t := ⟨goes_on _ _, goes_on _ _, goes_on _ _⟩

theorem witness_CursorOwnership :
    (run .tick filled).map (·.rd) = some 1 ∧ (run .stop { filled with rd := 7 }).map (·.rd) = some 0 := by decide

theorem witness_TickConsumesAndOutputs :
    s0.playing = false ∧
    (let s : State := { filled with halfRate := true, alt := true }
     s.playing = true ∧ s.halfRate = true ∧ s.alt = true) ∧
    (playing.playing = true ∧ (playing.halfRate = true → playing.alt = false) ∧ playing.occ.toNat < 1) ∧
    (let s : State := { playing with stereo := true, occ := 1 }
     s.playing = true ∧ (s.halfRate = true → s.alt = false) ∧ s.occ.toNat < 2) ∧
    (let s : State := { filled with halfRate := true, rd := 1023, occ := 1 }
     s.playing = true ∧ (s.halfRate = true → s.alt = false) ∧ s.cap ≠ 0#16 ∧ s.stereo = false ∧ 1 ≤ s.occ.toNat) ∧
    (let s : State := { filled with stereo := true, rd := 1023, occ := 2 }
     s.playing = true ∧ (s.halfRate = true → s.alt = false) ∧ s.cap ≠ 0#16 ∧ s.stereo = true ∧ 2 ≤ s.occ.toNat) := by
  decide

theorem witness_HalfRateDrainsAtMostHalfTheTicks :
    let s : State := { filled with halfRate := true, alt := true }
    s.playing = true ∧ s.halfRate = true ∧ ∃ t, Ticks 2 s t := by
  refine ⟨by decide, by decide, ?_⟩
  obtain ⟨t, h⟩ := goes_on .tick { filled with halfRate := true }
  exact ⟨t, .more (s' := { filled with halfRate := true }) rfl (.more h (.none t))⟩

theorem witness_UnderrunStaysUntilRead :
    ((runStep (arrive { s0 with underrun := true } (.csr (.read 0x10 0xF)))).map (·.underrun) = some false ∧
    (runStep { s0 with underrun := true, inputs := [.reset] }).map (·.underrun) = some false) ∧
    (runStep (arrive playing .tick)).map (·.underrun) = some true := by decide

theorem witness_OutputsComeOnlyFromTheirInstructions :
    (Instr.rdUnmapped 0x3F).wf = true ∧ (∃ t, exec (.rdUnmapped 0x3F) s0 = .next t) ∧
    (∃ t, exec .tick { filled with stereo := true } = .next t) ∧ ∃ t, exec .refill s0 = .next t :=
  ⟨by decide, goes_on _ _, goes_on _ _, goes_on _ _⟩

theorem witness_RefillRule :
    reading.busy = true ∧
    (State.reset.busy = false ∧ State.reset.total = 0#32) ∧
    (let s : State := { playing with consumed := 1024, occ := 513 }
     s.busy = false ∧ s.total ≠ 0#32 ∧ s.consumed.toNat < s.total.toNat ∧ (s.cap - s.occ).toNat < 512) ∧
    (let s : State := { playing with consumed := 1024, occ := 512 }
     s.busy = false ∧ s.total ≠ 0#32 ∧ s.consumed.toNat < s.total.toNat ∧ 512 ≤ (s.cap - s.occ).toNat) ∧
    (let s : State := { playing with consumed := 1500, occ := 1 }
     s.busy = false ∧ s.total ≠ 0#32 ∧ s.total.toNat ≤ s.consumed.toNat ∧ s.occ.toNat ≤ 1) ∧
    (let s : State := { playing with consumed := 1500, occ := 2 }
     s.busy = false ∧ s.total ≠ 0#32 ∧ s.total.toNat ≤ s.consumed.toNat ∧ 2 ≤ s.occ.toNat) := by decide

theorem witness_ReadResponseRule :
    s0.pendKind ≠ .read ∧
    (reading.pendKind = .read ∧ reading.cap ≠ 0#16 ∧ 512 ≤ reading.cap.toNat ∧ reading.bufWraps = false) ∧
    (let s : State := { reading with wr := 512, bufCustom := true, bufBase := 0xFFFFFC00 }
     s.pendKind = .read ∧ s.cap ≠ 0#16 ∧ 512 ≤ s.cap.toNat ∧ s.bufWraps = false) ∧
    0xFF#8 ≠ 0#8 := by decide

theorem witness_BusyIgnoresEveryCommandWord :
    reading.busy = true ∧ decode (commandWrite 0x08) = .ok .stop ∧ run .stop reading = some reading := by decide

theorem witness_StopRule :
    reading.busy = true ∧ filled.busy = false ∧ (run .stop filled) = (run .stop filled).bind (run .stop) := by decide

theorem witness_TicksAfterStopDoNothing :
    filled.busy = false ∧ ∃ t t', exec .stop filled = .next t ∧ Ticks 1 t t' :=
  ⟨by decide, _, _, rfl, .more (execTick_notPlaying rfl) (.none _)⟩

theorem witness_PlayRule :
    reading.busy = true ∧ (State.reset.busy = false ∧ State.reset.initDone = false) ∧
    (let s : State := { s0 with total := 0 }
     s.busy = false ∧ s.initDone = true ∧ s.total = 0#32) ∧
    (paused.busy = false ∧ paused.initDone = true ∧ paused.total ≠ 0#32 ∧ paused.playing = false) ∧
    (filled.busy = false ∧ filled.initDone = true ∧ filled.total ≠ 0#32 ∧ filled.playing = true) := by decide

theorem witness_PauseRule :
    reading.busy = true ∧ (paused.busy = false ∧ paused.stopped = false) ∧ (s0.busy = false ∧ s0.stopped = true) := by
  decide

theorem witness_PauseResumeRestoresPlayback :
    filled.busy = false ∧ filled.stopped = false ∧ filled.playing = true ∧
    ∃ t t', exec .pause filled = .next t ∧ Ticks 1 t t' :=
  ⟨by decide, by decide, by decide, _, _, rfl, .more (execTick_notPlaying rfl) (.none _)⟩

theorem witness_SelectFileRule :
    reading.busy = true ∧ (State.reset.busy = false ∧ State.reset.initDone = false) ∧
    (filled.busy = false ∧ filled.initDone = true) := by decide

theorem witness_LookupResponseRule : s0.pendKind ≠ .lookup ∧ looking.pendKind = .lookup ∧ 0x01#8 ≠ 0#8 := by decide

theorem witness_InitRule :
    reading.busy = true ∧ (s0.busy = false ∧ (0x08#8).extractLsb' 3 5 ≠ 0#5 ∧ (0x07#8).extractLsb' 3 5 = 0#5) ∧
    (let s : State := { State.reset with cfg := { internalBufBytes := 0, addrW := 32 } }
     s.busy = false ∧ s.customLen = 0#16 ∧ s.cfg.internalBufBytes = 0) ∧
    (let s : State := { State.reset with cfg := { internalBufBytes := 1023, addrW := 32 } }
     s.busy = false ∧ s.customLen = 0#16 ∧ 0 < s.cfg.internalBufBytes ∧ s.cfg.internalBufBytes < 1024) ∧
    (State.reset.customLen = 0#16 ∧ 1024 ≤ State.reset.cfg.internalBufBytes ∧ State.reset.initDone = false ∧
      1024#16 = BitVec.ofNat 16 (min (1024 - 1024 % 512) 65024)) ∧
    (let s : State := { s0 with customLen := 1024 }
     s.customLen ≠ 0#16 ∧ s.initDone = true) := by decide

theorem witness_InitResponseRule :
    s0.pendKind ≠ .init ∧ initializing.pendKind = .init ∧ 0x01#8 ≠ 0#8 ∧ 1023 < initializing.pendCap.toNat := by decide

theorem witness_DeinitRule : reading.busy = true ∧ filled.busy = false := by decide

theorem witness_SetBufferRule :
    reading.busy = true ∧ (s0.busy = false ∧ s0.arg1 = 0#32) ∧
    (let s : State := { s0 with arg1 := 1023 }
     s.busy = false ∧ s.arg1 ≠ 0#32 ∧ s.arg1.toNat < 1024) ∧
    (let s : State := { s0 with arg1 := 1024 }
     s.busy = false ∧ 1024 ≤ s.arg1.toNat) := by decide

theorem witness_SetCsRule : reading.busy = true ∧ s0.busy = false := by decide

theorem witness_IllegalCommandRule : reading.busy = true ∧ s0.busy = false ∧ legalCommandWord 0x0A = false := by decide

theorem witness_PlaybackStateGraph :
    (Inv filled ∧ ∃ t, exec .pause filled = .next t) ∧ (Inv reading ∧ ∃ t, exec (.stgReadResp 1 oneBlock) reading = .next t) ∧
    (Inv initializing ∧ ∃ t, exec (.stgInitResp 1) initializing = .next t) :=
  ⟨⟨inv_of _, goes_on _ _⟩, ⟨inv_of _ (h24 := fun _ _ _ => rfl), goes_on _ _⟩, ⟨inv_of _, ⟨_, rfl⟩⟩⟩

theorem witness_ElementsChangeOnlyByTheirWriters :
    (run .play s0).map (·.tickEn) = some true ∧ (run (.setCs 3) s0).map (·.csId) = some 3 ∧
    (run .setBuffer { s0 with arg1 := 1024 }).map (·.customLen) = some 1024 ∧
    (run .tick filled).map (·.rd) = some 1 ∧ (run .pause filled).map (·.playing) = some false ∧
    (run .play { s0 with total := 0 }).map (·.lasterrWord) = some 0x104 := by decide

theorem witness_ArgumentsAreReadOnlyByTheirCommands :
    Instr.stgLookupResp 0 1 2 ∉ [Instr.selectFile, .setBuffer, .rdArg0, .rdArg1] ∧
    (∀ d, Instr.stgLookupResp 0 1 2 ≠ .wrArg0 d ∧ Instr.stgLookupResp 0 1 2 ≠ .wrArg1 d) ∧
    ∃ t, exec (.stgLookupResp 0 1 2) looking = .next t :=
  ⟨by simp, fun _ => ⟨nofun, nofun⟩, _, rfl⟩

theorem witness_LasterrRecordsOnlyTheListedErrors :
    (run .play State.reset).map (·.lasterrWord) = some 0x103 ∧ (run (.stgInitResp 0xFF) initializing).map (·.lasterrWord) =
      some 0x2FF := by decide

theorem witness_UnmatchedResponsesAreIgnored :
    delivery (arrive reading (.stg (.init 0))).inputs = .port (.stg (.init 0)) [.cycle false none none] ∧
    (arrive reading (.stg (.init 0))).pendKind ≠ .init ∧
    delivery (arrive looking (.stg (.read 0 oneBlock))).inputs =
      .port (.stg (.read 0 oneBlock)) [.cycle false none none] ∧
    (arrive looking (.stg (.read 0 oneBlock))).pendKind ≠ .read ∧
    delivery (arrive s0 (.stg (.lookup 0 0 0))).inputs = .port (.stg (.lookup 0 0 0)) [.cycle false none none] ∧
    (arrive s0 (.stg (.lookup 0 0 0))).pendKind ≠ .lookup :=
  ⟨rfl, by decide, rfl, by decide, rfl, by decide⟩

theorem witness_ReadPlainRegisterRule :
    (0x44#8, Instr.rdCustomLen, s0.customLen.setWidth 32) ∈ [(0x04#8, .rdArg0, s0.arg0), (0x08#8, .rdArg1, s0.arg1),
      (0x18#8, .rdMode, 0#29 ++ BitVec.ofBool s0.bridge ++ BitVec.ofBool s0.stereo ++ BitVec.ofBool s0.halfRate),
      (0x1C#8, .rdCapacity, s0.cap.setWidth 32), (0x20#8, .rdOccupied, s0.occ.setWidth 32),
      (0x24#8, .rdRdPtr, s0.rd.setWidth 32), (0x28#8, .rdWrPtr, s0.wr.setWidth 32),
      (0x2C#8, .rdStartBlock, s0.startBlock), (0x30#8, .rdTotalBytes, s0.total),
      (0x34#8, .rdBytesConsumed, s0.consumed), (0x38#8, .rdBlockIndex, s0.blkIdx),
      (0x3C#8, .rdCsId, s0.csId.setWidth 32), (0x40#8, .rdCustomBase, s0.customBase),
      (0x44#8, .rdCustomLen, s0.customLen.setWidth 32)] := by simp

theorem witness_ReadCmdAndUnmappedRule : 0x48 ≤ (0x48#8).toNat ∧ 0x48 ≤ (0xFF#8).toNat := by decide

theorem witness_IgnoredWriteRule : 0x0C ≤ (0x0C#8).toNat ∧ 0x0C ≤ (0xFF#8).toNat := by decide

theorem witness_BufferContentsReachOnlyTheDutyPort :
    Instr.refill ≠ .tick ∧ SameButMemory filled { filled with ram := [] } ∧ (∃ t, exec .refill filled = .next t) ∧
    ∃ t, exec .tick filled = .next t := ⟨by decide, rfl, goes_on _ _, goes_on _ _⟩

theorem witness_ResetValues : delivery (State.inputs { reading with inputs := [.reset] }) = .reset [] := rfl

theorem witness_ResetLeavesOnlyWhatIsOutsideTheBlock :
    delivery (State.inputs { external with inputs := [.reset, .reset] }) = .reset [.reset] := rfl

theorem witness_ResetAbandonsTheOutstandingRequest :
    let s : State := { reading with inputs := [.reset, Arrival.only (.stg (.read 0 oneBlock))] }
    ∃ rest t, delivery s.inputs = .reset rest ∧ step s = .next t ∧
      delivery rest = .port (.stg (.read 0 oneBlock)) [.cycle false none none] :=
  ⟨_, _, rfl, rfl, rfl⟩

theorem witness_StepKeepsInvariant :
    Inv (arrive filled .tick) ∧ Inv (arrive reading (.stg (.read 0 oneBlock))) ∧ Inv external ∧
    ∃ t, step (arrive filled .tick) = .next t := ⟨inv_of _, inv_of _ (h24 := fun _ _ _ => rfl), inv_of _, step_goes_on .tick rfl rfl⟩

theorem witness_ReachableStatesMeetR20 :
    Reachable { State.reset with cfg := { internalBufBytes := 65536, addrW := 16 }, inputs := [.cycle true none none] } :=
  .reset _ _

theorem witness_InvariantStatesNeverStop : Inv (arrive filled .tick) ∧ Inv looking := ⟨inv_of _, inv_of _⟩

/-- A file of two bytes is all in the ring, and a tick arrives. -/
def lastTwo : State := arrive { filled with total := 2, consumed := 2, wr := 2, occ := 2 } .tick

/-- R55: the occupied bytes, oldest first. -/
theorem test_queue : lastTwo.queue = [some 0x7F, some 0x20] := by rfl

theorem witness_OccupiedBytesStayKnown : Inv lastTwo ∧ OccupiedKnown lastTwo ∧ ∃ t, step lastTwo = .next t :=
  ⟨inv_of _, fun _ => by simp [test_queue], step_goes_on .tick rfl rfl⟩

theorem witness_RinglessAccessStops :
    (let s : State := { State.reset with playing := true, occ := 1 }
     s.playing = true ∧ (s.halfRate = true → s.alt = false) ∧ 1 ≤ s.occ.toNat ∧ s.cap = 0#16) ∧
    (let s : State := { State.reset with pendKind := .read }
     s.pendKind = .read ∧ s.cap = 0#16) := by decide

/-- A write of another agent to the last byte of `external`'s region. -/
def overwritten : State := { external with inputs := [.foreignWrite 0xFFFFFFFF] }

/-- A read of another agent at the last byte of `external`'s region. -/
def peeked : State := { external with inputs := [.foreignRead 0xFFFFFFFF] }

theorem witness_ForeignReadRule :
    delivery peeked.inputs = .foreignRead 0xFFFFFFFF [] ∧ peeked.initDone = true ∧ peeked.bufCustom = true ∧
    1023 < peeked.cap.toNat ∧ peeked.bufKey 1023 = (0xFFFFFFFF#32).toNat % 2 ^ peeked.cfg.addrW.val := by decide

theorem witness_ForeignWriteRule :
    delivery overwritten.inputs = .foreignWrite 0xFFFFFFFF [] ∧ overwritten.initDone = true ∧
    overwritten.bufCustom = true ∧ 1023 < overwritten.cap.toNat ∧
    overwritten.bufKey 1023 = (0xFFFFFFFF#32).toNat % 2 ^ overwritten.cfg.addrW.val := by decide

theorem witness_ForeignWriteLastsUntilRelease :
    (let s : State := arrive { external with bufForeign := true } .tick
     s.bufForeign = true ∧ ∃ t, step s = .next t) ∧
    (let s : State := { external with bufForeign := true, inputs := [.reset] }
     delivery s.inputs = .reset [] ∧ ∃ t, step s = .next t) ∧
    (initializing.pendKind = .init ∧ ∃ t, exec (.stgInitResp 0) initializing = .next t) :=
  ⟨⟨rfl, step_goes_on .tick rfl rfl⟩, ⟨rfl, _, rfl⟩, rfl, _, rfl⟩

theorem witness_UnreliableBufferReadsAsAnyValue :
    (let s : State := { external with bufForeign := true }
     s.bufCustom = true ∧ s.bufForeign = true) ∧
    (let s : State := { external with bufBase := 0xFFFFFC01 }
     s.bufCustom = true ∧ 2 ^ s.cfg.addrW.val < s.bufBase.toNat + s.cap.toNat) ∧
    (let s : State := { external with cfg := { internalBufBytes := 1024, addrW := 32, otherMemory := [(0xFFFFFFFF, 1)] } }
     s.bufCustom = true ∧ ∃ r ∈ s.cfg.otherMemory, r.1 < s.bufBase.toNat + s.cap.toNat ∧ s.bufBase.toNat < r.1 + r.2) ∧
    (let s : State := { external with cfg := { internalBufBytes := 1024, addrW := 32, otherMemory := [(0xFFFFFB00, 256)] } }
     s.bufForeign = false ∧ s.bufBase.toNat + s.cap.toNat ≤ 2 ^ s.cfg.addrW.val ∧
     (∀ r ∈ s.cfg.otherMemory, s.bufBase.toNat + s.cap.toNat ≤ r.1 ∨ r.1 + r.2 ≤ s.bufBase.toNat) ∧
     s.ringByte 1023 = some 0x01 ∧ s.ringByte 1 = none) ∧
    filled.bufCustom = false ∧ filled.ringByte 0 = some 0x7F := by decide

theorem witness_ReservedBytesBelongToStorage :
    (∃ t, exec .refill playing = .next t ∧ playing.busy = false ∧ t.busy = true ∧ 511 < 512) ∧
    (let s : State := { reading with consumed := 512, blkIdx := 0x102, wr := 512, occ := 512 }
     Inv s ∧ s.pendKind = .read ∧ 511 < s.occ.toNat ∧ 511 < 512) :=
  ⟨⟨_, rfl, rfl, rfl, by decide⟩, inv_of _ (h24 := fun _ _ _ => rfl), rfl, by decide, by decide⟩

end Sys2Proof.Tests
end

/-! PROOF. Family 00_scope: the link from a step to `exec` (O6), the parameters' frame (O8), and where the machine stops (O59). -/

namespace Sys2Proof.Machine

/-! ### Meanings that always answer a next state -/

/-- The meaning answers a next state, and `P` holds of it. -/
def AnswersWith (P : State → Prop) (r : Result) : Prop := ∃ t, r = .next t ∧ P t

theorem answersWith_next {P : State → Prop} {t : State} (h : P t) : AnswersWith P (.next t) := ⟨t, rfl, h⟩

theorem AnswersWith.exists_next {P : State → Prop} {r : Result} (h : AnswersWith P r) : ∃ t, r = .next t :=
  h.imp fun _ ht => ht.1

theorem AnswersWith.of_next {P : State → Prop} {r : Result} {t : State} (h : AnswersWith P r) (hr : r = .next t) : P t := by
  obtain ⟨u, hu, hP⟩ := h
  cases hr.symm.trans hu
  exact hP

theorem AnswersWith.ite {P : State → Prop} {c : Prop} [Decidable c] {r₁ r₂ : Result} (h₁ : AnswersWith P r₁)
    (h₂ : AnswersWith P r₂) : AnswersWith P (if c then r₁ else r₂) := by
  split
  · exact h₁
  · exact h₂

/-- The guard of R51: while `BUSY` = 1 the state stays as it is. -/
theorem AnswersWith.whenIdle {P : State → Prop} {s : State} {r : Result} (hs : P s) (hr : AnswersWith P r) :
    AnswersWith P (s.whenIdle r) :=
  .ite (answersWith_next hs) hr

/-- The guard of R96: a response of another kind leaves the state as it is. -/
theorem AnswersWith.whenPending {P : State → Prop} {s : State} {k : PendKind} {r : Result} (hs : P s)
    (hr : AnswersWith P r) : AnswersWith P (s.whenPending k r) :=
  .ite hr (answersWith_next hs)

/-! ### The parameters' frame -/

theorem execInit_answersWith_cfg (mode : Byte) (s : State) : AnswersWith (·.cfg = s.cfg) (execInit mode s) := by
  refine .whenIdle rfl (.ite (answersWith_next rfl) ?_)
  cases s.bufferOperand with
  | error code => exact answersWith_next rfl
  | ok buf =>
    refine answersWith_next ?_
    show (if s.initDone then s.doDeinit else s).cfg = s.cfg
    split <;> rfl

theorem execPlay_answersWith_cfg (s : State) : AnswersWith (·.cfg = s.cfg) (execPlay s) := by
  refine .whenIdle rfl (.ite (answersWith_next rfl) (.ite (answersWith_next rfl) (answersWith_next ?_)))
  show (if s.playing then s.doStop else s).cfg = s.cfg
  split <;> rfl

theorem execRefill_answersWith_cfg (s : State) : AnswersWith (·.cfg = s.cfg) (execRefill s) := by
  rcases execRefill_cases s with ⟨_, e⟩ | ⟨_, _, e⟩ | ⟨_, _, _, _, e⟩ | ⟨_, _, _, _, e⟩ | ⟨_, _, _, _, e⟩ | ⟨_, _, _, _, e⟩
  all_goals rw [e]; exact answersWith_next rfl

/-- An instruction other than TICK and STG_READ_RESP goes on from every state, and keeps the parameters. -/
theorem exec_answersWith_cfg {i : Instr} (ht : i ≠ .tick) (hr : ∀ status data, i ≠ .stgReadResp status data) (s : State) :
    AnswersWith (·.cfg = s.cfg) (exec i s) := by
  cases i with
  | tick => exact absurd rfl ht
  | stgReadResp status data => exact absurd rfl (hr status data)
  | init mode => exact execInit_answersWith_cfg mode s
  | play => exact execPlay_answersWith_cfg s
  | refill => exact execRefill_answersWith_cfg s
  | deinit | setCs | pause | stop | illegal => exact .whenIdle rfl (answersWith_next rfl)
  | setBuffer => exact .whenIdle rfl (.ite (answersWith_next rfl) (.ite (answersWith_next rfl) (answersWith_next rfl)))
  | selectFile => exact .whenIdle rfl (.ite (answersWith_next rfl) (answersWith_next rfl))
  | stgInitResp | stgLookupResp => exact .whenPending rfl (.ite (answersWith_next rfl) (answersWith_next rfl))
  | rdCmd | rdArg0 | rdArg1 | rdStatus | rdUnderrun | rdLasterr | rdMode | rdCapacity | rdOccupied | rdRdPtr | rdWrPtr
  | rdStartBlock | rdTotalBytes | rdBytesConsumed | rdBlockIndex | rdCsId | rdCustomBase | rdCustomLen | rdUnmapped
  | wrArg0 | wrArg1 | wrIgnored => exact answersWith_next rfl

theorem execTick_cfg {s s' : State} (h : execTick s = .next s') : s'.cfg = s.cfg := by
  rcases execTick_cases s with ⟨_, e⟩ | ⟨_, _, e⟩ | ⟨_, _, _, e⟩ | ⟨_, _, _, _, e⟩ | ⟨_, _, _, _, e⟩
  all_goals cases h.symm.trans e
  all_goals rfl

theorem execStgReadResp_cfg {status : Byte} {data : Vector Byte 512} {s s' : State}
    (h : execStgReadResp status data s = .next s') : s'.cfg = s.cfg := by
  rcases execStgReadResp_cases status data s with ⟨_, e⟩ | ⟨_, _, _, e⟩ | ⟨_, _, _, e⟩ | ⟨_, _, e⟩
  all_goals cases h.symm.trans e
  all_goals rfl

/-- TICK and STG_READ_RESP are set apart: the two instructions that move bytes of the ring (R56, R68). -/
theorem tick_or_stgReadResp_or_other (i : Instr) :
    i = .tick ∨ (∃ status data, i = .stgReadResp status data) ∨
    (i ≠ .tick ∧ ∀ status data, i ≠ .stgReadResp status data) := by
  by_cases ht : i = .tick
  · exact .inl ht
  · refine .inr ((Classical.em (∃ status data, i = .stgReadResp status data)).imp_right fun hr => ⟨ht, ?_⟩)
    exact fun status data e => hr ⟨status, data, e⟩

/-- No instruction changes the parameters. -/
theorem exec_cfg {i : Instr} {s s' : State} (h : exec i s = .next s') : s'.cfg = s.cfg := by
  rcases tick_or_stgReadResp_or_other i with rfl | ⟨status, data, rfl⟩ | ⟨ht, hr⟩
  · exact execTick_cfg h
  · exact execStgReadResp_cfg h
  · exact (exec_answersWith_cfg ht hr s).of_next h

/-! ### Where the machine stops (log 8) -/

/-- A tick is active in full-rate mode, and in half-rate mode when it finds `ALT` = 0 (R61, R62). -/
theorem State.inactivePhase_flipAlt_eq_false (s : State) :
    s.flipAlt.inactivePhase = false ↔ (s.halfRate = true → s.alt = false) := by
  cases hh : s.halfRate <;> simp [State.inactivePhase, State.flipAlt, hh]

/-- A tick stops exactly when it must output while `C` = 0, and else answers a next state. -/
theorem execTick_next_or_stops (s : State) :
    (∃ s', execTick s = .next s') ∨
    (s.cap = 0#16 ∧ execTick s = .fault .ringUnmapped ∧ s.playing = true ∧ (s.halfRate = true → s.alt = false) ∧
      s.unitSize ≤ s.occ.toNat) := by
  rcases execTick_cases s with ⟨_, e⟩ | ⟨_, _, e⟩ | ⟨_, _, _, e⟩ | ⟨hp, hi, ho, hc, e⟩ | ⟨_, _, _, _, e⟩
  case inr.inr.inr.inl => exact .inr ⟨hc, e, hp, s.inactivePhase_flipAlt_eq_false.mp hi, ho⟩
  all_goals exact .inl ⟨_, e⟩

theorem execTick_ringless {s : State} (hp : s.playing = true) (ha : s.halfRate = true → s.alt = false)
    (ho : s.unitSize ≤ s.occ.toNat) (hc : s.cap = 0#16) : execTick s = .fault .ringUnmapped := by
  have hi : s.flipAlt.inactivePhase = false := s.inactivePhase_flipAlt_eq_false.mpr ha
  rcases execTick_cases s with ⟨h, _⟩ | ⟨_, h, _⟩ | ⟨_, _, h, _⟩ | ⟨_, _, _, _, e⟩ | ⟨_, _, _, h, _⟩
  · simp [hp] at h
  · simp [hi] at h
  · omega
  · exact e
  · exact absurd hc h

/-- A read response stops only when a block must be stored while `C` = 0, and else answers a next state. -/
theorem execStgReadResp_next_or_stops (status : Byte) (data : Vector Byte 512) (s : State) :
    (∃ s', execStgReadResp status data s = .next s') ∨
    (s.cap = 0#16 ∧ execStgReadResp status data s = .fault .ringUnmapped ∧ status = 0#8 ∧ s.pendKind = .read) := by
  rcases execStgReadResp_cases status data s with ⟨_, e⟩ | ⟨hk, hs, hc, e⟩ | ⟨_, _, _, e⟩ | ⟨_, _, e⟩
  case inr.inl => exact .inr ⟨hc, e, hs, hk⟩
  all_goals exact .inl ⟨_, e⟩

theorem execStgReadResp_ringless (data : Vector Byte 512) {s : State} (hk : s.pendKind = .read) (hc : s.cap = 0#16) :
    execStgReadResp 0 data s = .fault .ringUnmapped := by
  rcases execStgReadResp_cases 0 data s with ⟨h, _⟩ | ⟨_, _, _, e⟩ | ⟨_, _, h, _⟩ | ⟨_, h, _⟩
  · exact absurd hk h
  · exact e
  · exact absurd hc h
  · exact absurd rfl h

/-! ### The obligations -/

/-- Settles O6: `step` reads the delivery and the decoder, and no more. -/
theorem stepRunsDecodedInstruction : Obligations.StepRunsDecodedInstruction := by
  unfold Obligations.StepRunsDecodedInstruction
  intro s p rest i hd hp
  rw [step, hd]
  dsimp only
  rw [hp]
  rfl

/-- Settles O8, by the ways a step answers: every event but an instruction leaves the parameters by definition, and an
instruction by `exec_cfg`. -/
theorem parametersNeverChange : Obligations.ParametersNeverChange := by
  unfold Obligations.ParametersNeverChange
  intro s s' h
  rcases step_cases h with ⟨_, rfl⟩ | ⟨_, _, rfl⟩ | ⟨_, _, _, rfl⟩ | ⟨_, _, _, rfl⟩ | ⟨_, _, rfl⟩ | ⟨_, _, _, _, rfl⟩ |
    ⟨_, rest, _, _, _, he⟩
  case inr.inr.inr.inr.inr.inr => exact (exec_cfg he).trans (s.taking_cfg rest)
  all_goals rfl

/-- Settles O59, by the instruction: TICK and STG_READ_RESP by their own cases, every other instruction always goes on. -/
theorem ringlessAccessStops : Obligations.RinglessAccessStops := by
  unfold Obligations.RinglessAccessStops
  refine ⟨fun s hp ha ho hc => execTick_ringless hp ha ho hc, fun s data hk hc => execStgReadResp_ringless data hk hc,
    fun i s => ?_⟩
  rcases tick_or_stgReadResp_or_other i with rfl | ⟨status, data, rfl⟩ | ⟨ht, hr⟩
  · exact (execTick_next_or_stops s).imp_right fun ⟨hc, e, hp, ha, ho⟩ => ⟨hc, e, .inl ⟨rfl, hp, ha, ho⟩⟩
  · refine (execStgReadResp_next_or_stops status data s).imp_right fun ⟨hc, e, hs, hk⟩ => ?_
    subst hs
    exact ⟨hc, e, .inr ⟨data, rfl, hk⟩⟩
  · exact .inl (exec_answersWith_cfg ht hr s).exists_next

end Sys2Proof.Machine

/-! PROOF. Family 10_state: the invariant (O54, O55, O56), who changes which element and who sends what (O15, O16, O34), what the
buffer memory can reach (O45), the reserved bytes (O50), and reset (O52). -/

namespace Sys2Proof.Machine

/-! ### One rule for each instruction with several outcomes: what it takes for `P` to hold of each next state it answers -/

theorem AnswersWith.forall_next {P : State → Prop} {r : Result} (h : AnswersWith P r) : ∀ t, r = .next t → P t :=
  fun _ => h.of_next

theorem AnswersWith.dite {P : State → Prop} {c : Prop} [Decidable c] {r₁ r₂ : Result} (h₁ : c → AnswersWith P r₁)
    (h₂ : ¬c → AnswersWith P r₂) : AnswersWith P (if c then r₁ else r₂) := by
  split
  · exact h₁ ‹c›
  · exact h₂ ‹¬c›

section
variable {P : State → Prop} {s : State} (hs : P s)
include hs

/-- The guard of R51, with what it lets through. -/
theorem AnswersWith.whenIdle_of {r : Result} (hr : s.busy = false → AnswersWith P r) : AnswersWith P (s.whenIdle r) :=
  .dite (fun _ => answersWith_next hs) fun hb => hr (Bool.eq_false_of_not_eq_true hb)

/-- The guard of R96, with what it lets through. -/
theorem AnswersWith.whenPending_of {k : PendKind} {r : Result} (hr : s.pendKind = k → AnswersWith P r) :
    AnswersWith P (s.whenPending k r) :=
  .dite hr fun _ => answersWith_next hs

/-- INIT: an error, or the request, of an initialized block after its deinitialization (R77). -/
theorem execInit_answersWith {mode : Byte} (hfail : ∀ code, P (s.fail 1 code))
    (hask : ∀ t cap custom base, s.busy = false → (s.initDone = false ∧ t = s ∨ s.initDone = true ∧ t = s.doDeinit) →
      s.bufferOperand = .ok (cap, custom, base) →
      P (({ t with pendMode := mode, pendCap := cap, pendCustom := custom, pendBase := base }.emit
        (.stgInit s.csId)).pend .init)) :
    AnswersWith P (execInit mode s) := by
  refine .whenIdle_of hs fun hb => .ite (answersWith_next (hfail _)) ?_
  cases he : s.bufferOperand with
  | error code => exact answersWith_next (hfail code)
  | ok buf =>
    refine answersWith_next ?_
    cases hi : s.initDone with
    | false => exact hask s _ _ _ hb (.inl ⟨hi, rfl⟩) he
    | true => exact hask s.doDeinit _ _ _ hb (.inr ⟨hi, rfl⟩) he

/-- SET_BUFFER (R80). -/
theorem execSetBuffer_answersWith (hfail : ∀ code, P (s.fail 1 code))
    (hset : Config.minCap ≤ s.lengthOperand →
      P { s with customBase := s.baseOperand, customLen := capacityOf s.lengthOperand }.succeed) :
    AnswersWith P (execSetBuffer s) :=
  .whenIdle hs <| .ite (answersWith_next (hfail _)) <|
    .dite (fun _ => answersWith_next (hfail _)) fun hn => answersWith_next (hset (Nat.le_of_not_lt hn))

/-- SELECT_FILE (R75). -/
theorem execSelectFile_answersWith (hfail : ∀ code, P (s.fail 1 code))
    (hask : s.busy = false → s.initDone = true →
      P (({ s.doStop with total := 0 }.emit (.stgLookup s.arg0)).pend .lookup)) :
    AnswersWith P (execSelectFile s) :=
  .whenIdle_of hs fun hb => .dite (fun _ => answersWith_next (hfail _)) fun hi =>
    answersWith_next (hask hb (by simpa using hi))

/-- PLAY: an error, or the start, of a playing block after its stop (R73). -/
theorem execPlay_answersWith (hfail : ∀ code, P (s.fail 1 code))
    (hstart : ∀ t, s.busy = false → s.initDone = true → (t = s ∨ t = s.doStop) →
      P { t with playing := true, stopped := false, tickEn := true }.succeed) :
    AnswersWith P (execPlay s) := by
  refine .whenIdle_of hs fun hb => .dite (fun _ => answersWith_next (hfail _)) fun hi =>
    .ite (answersWith_next (hfail _)) (answersWith_next ?_)
  have hi : s.initDone = true := by simpa using hi
  cases s.playing with
  | false => exact hstart s hb hi (.inl rfl)
  | true => exact hstart s.doStop hb hi (.inr rfl)

/-- REFILL: nothing to do, a request for the next block, or the end of the stream (R67). -/
theorem execRefill_answersWith (hdone : P s.succeed)
    (hask : s.busy = false → s.consumed.toNat < s.total.toNat → Config.block ≤ (s.cap - s.occ).toNat →
      P ({ (s.forgetRegion s.wr Config.block).emit (.stgRead s.blkIdx s.wr) with blkIdx := s.blkIdx + 1 }.pend .read))
    (hstop : s.busy = false → P s.doStop.succeed) : AnswersWith P (execRefill s) := by
  rcases execRefill_cases s with ⟨_, e⟩ | ⟨_, _, e⟩ | ⟨_, _, _, _, e⟩ | ⟨hb, _, hlt, hf, e⟩ | ⟨hb, _, _, _, e⟩ |
    ⟨_, _, _, _, e⟩ <;> rw [e] <;> apply answersWith_next
  · exact hs
  · exact hdone
  · exact hdone
  · exact hask hb hlt hf
  · exact hstop hb
  · exact hdone

/-- STG_LOOKUP_RESP (R76). -/
theorem execStgLookupResp_answersWith {status : Byte} {start length : Word}
    (hfail : s.pendKind = .lookup → P (s.unpend.fail 3 status))
    (hset : s.pendKind = .lookup →
      P { s.unpend with startBlock := start, total := length, consumed := 0, blkIdx := start }.succeed) :
    AnswersWith P (execStgLookupResp status start length s) :=
  .whenPending_of hs fun hk => .ite (answersWith_next (hfail hk)) (answersWith_next (hset hk))

/-- STG_READ_RESP: ignored, the block stored and committed, or the failure (R68). -/
theorem execStgReadResp_next {status : Byte} {data : Vector Byte 512}
    (hcommit : s.pendKind = .read → s.cap ≠ 0#16 →
      P { (s.unpend.writeRegion s.wr data.toList).commitProduce s.commitLength with
        consumed := s.consumed + BitVec.ofNat 32 s.commitLength }.succeed)
    (hfail : s.pendKind = .read → P ((s.unpend.forgetRegion s.wr Config.block).doStop.fail 4 status)) :
    ∀ s', execStgReadResp status data s = .next s' → P s' := by
  intro s' h
  rcases execStgReadResp_cases status data s with ⟨_, e⟩ | ⟨_, _, _, e⟩ | ⟨hk, _, hc, e⟩ | ⟨hk, _, e⟩ <;>
    cases h.symm.trans e
  · exact hs
  · exact hcommit hk hc
  · exact hfail hk

/-- TICK: nothing while not playing, the inactive phase, an underrun, or the output of a unit (R61). -/
theorem execTick_next (hflip : P s.flipAlt) (hunder : P { s.flipAlt with underrun := true })
    (hout : s.playing = true → s.unitSize ≤ s.occ.toNat → s.cap ≠ 0#16 →
      P ({ s.flipAlt with
        rd := BitVec.ofNat 16 (s.ringOff s.rd s.unitSize), occ := s.occ - BitVec.ofNat 16 s.unitSize }.emitAll
          (muxOutput s.stereo s.bridge (s.peekBytes s.unitSize)))) :
    ∀ s', execTick s = .next s' → P s' := by
  intro s' h
  rcases execTick_cases s with ⟨_, e⟩ | ⟨_, _, e⟩ | ⟨_, _, _, e⟩ | ⟨_, _, _, _, e⟩ | ⟨hp, _, hn, hc, e⟩ <;>
    cases h.symm.trans e
  · exact hs
  · exact hflip
  · exact hunder
  · exact hout hp hn hc

end

/-! ### The invariant: reset and other agents -/

/-- R17's reset values meet the invariant, whatever canonical external memory stands beside them (log 9). -/
theorem inv_reset {cfg : Params} {ext : Memory} (hw : Memory.wf ext) (hm : ∀ c ∈ ext, c.1 < 2 ^ cfg.addrW.val)
    (draws : Nat) (inputs : List Arrival) (outs : List Output) :
    Inv { State.reset with cfg := cfg, ext := ext, draws := draws, inputs := inputs, outs := outs } where
  occupancy := Nat.zero_le _
  cursors hc := absurd rfl hc
  noRing _ := ⟨rfl, rfl, rfl⟩
  capacity := .inl rfl
  capacityInit := by simp [State.reset]
  oneState := by simp [State.reset]
  uninitialized _ := ⟨rfl, rfl, rfl⟩
  playingTicks := nofun
  consumedTotal := Nat.zero_le _
  blockAligned _ := ⟨rfl, rfl⟩
  busyPending := by simp [State.reset]
  reservation := nofun
  blockIndex _ ht := absurd rfl ht
  customLength := .inl rfl
  initPending := nofun
  lookupPending := nofun
  readPending := nofun
  bases := ⟨State.extSize_pos _, State.extSize_pos _, State.extSize_pos _⟩
  internalFits _ := Nat.zero_le _
  startedTicks := nofun
  altHalfRate _ := rfl
  reservedUnknown := nofun
  memories := ⟨Memory.wf_nil, hw⟩
  inMemory := ⟨nofun, hm⟩

theorem Inv.taking {s : State} (h : Inv s) (rest : List Arrival) : Inv (s.taking rest) := h.congr rfl

theorem Inv.applyReset {s : State} (h : Inv s) : Inv s.applyReset :=
  inv_reset h.memories.2 h.inMemory.2 _ _ _

/-- Losing bytes of the external memory keeps the invariant (R43). -/
theorem Inv.forgetExt {s : State} (h : Inv s) (p : Nat → Bool) : Inv { s with ext := Memory.forget s.ext p } :=
  { h with
    reservedUnknown := fun hk k hlt => by
      have hu := h.reservedUnknown hk k hlt
      show Memory.get? (if s.bufCustom then Memory.forget s.ext p else s.ram) (s.bufKey (s.ringOff s.wr k)) = none
      cases hc : s.bufCustom with
      | false => simpa [State.bufMem, hc] using hu
      | true =>
        simp only [State.bufMem, hc, if_true] at hu
        simp [Memory.get?_forget, hu]
    memories := ⟨h.memories.1, Memory.wf_forget h.memories.2 p⟩
    inMemory := ⟨h.inMemory.1, fun c hc => h.inMemory.2 c (Memory.mem_forget hc)⟩ }

theorem Inv.foreignAccess {s : State} (h : Inv s) (addr : Word) : Inv (s.foreignAccess addr) := h.congr rfl

theorem Inv.foreignWrite {s : State} (h : Inv s) (addr : Word) : Inv (s.foreignWrite addr) :=
  (h.foreignAccess addr).forgetExt _

/-! ### The invariant: what leaves the ring and the memories alone -/

theorem Inv.succeed {s : State} (h : Inv s) : Inv s.succeed := h.congr rfl

theorem Inv.fail {s : State} (h : Inv s) (cls : BitVec 3) (code : Byte) : Inv (s.fail cls code) := h.congr rfl

theorem Inv.flipAlt {s : State} (h : Inv s) : Inv s.flipAlt :=
  { h with
    altHalfRate := fun hh => by
      have hf : s.halfRate = false := hh
      simpa [hf] using h.altHalfRate hf }

/-- PLAY's change of state keeps the invariant (R73). -/
theorem Inv.start {s : State} (h : Inv s) (hk : s.pendKind = .none) (hi : s.initDone = true) :
    Inv { s with playing := true, stopped := false, tickEn := true } :=
  { h with
    oneState := by simp
    uninitialized := fun hu => by simp [hi] at hu
    playingTicks := fun _ => rfl
    startedTicks := fun _ => rfl
    lookupPending := fun hr => by simp [hk] at hr }

/-- PAUSE's change of state keeps the invariant (R74): only a state that PLAY has started is turned over. -/
theorem Inv.togglePlaying {s : State} (h : Inv s) (hk : s.pendKind = .none) :
    Inv { s with playing := if s.stopped then s.playing else !s.playing } := by
  cases hs : s.stopped with
  | true =>
    rw [if_pos rfl, ← hs]
    exact h
  | false =>
    rw [if_neg Bool.false_ne_true, ← hs]
    exact
      { h with
        oneState := by simp [hs]
        uninitialized := fun hu => by
          have := (h.uninitialized hu).1
          simp [hs] at this
        playingTicks := fun _ => h.startedTicks hs
        lookupPending := fun hr => by simp [hk] at hr }

/-- SET_BUFFER's registers keep the invariant (R80). -/
theorem Inv.setCustomBuffer {s : State} (h : Inv s) {n : Nat} (hn : 1024 ≤ n) :
    Inv { s with customBase := s.baseOperand, customLen := capacityOf n } :=
  { h with
    customLength := .inr (legalCapacity_capacityOf hn)
    bases := by
      obtain ⟨_, hp, hb⟩ := h.bases
      refine ⟨?_, hp, hb⟩
      rw [State.baseOperand, BitVec.toNat_ofNat]
      exact (Nat.mod_le _ _).trans_lt (Nat.mod_lt _ s.extSize_pos) }

/-! ### The invariant: requests and their answers -/

/-- What INIT keeps for its response is a legal buffer (R77). -/
theorem Inv.pendInit {s : State} (h : Inv s) (hi : s.initDone = false) (mode : Byte) {cap : Count} {custom : Bool}
    {base : Word} (hc : LegalCapacity cap) (hf : custom = false → cap.toNat ≤ s.cfg.internalBufBytes)
    (hb : base.toNat < s.extSize) :
    Inv ({ s with pendMode := mode, pendCap := cap, pendCustom := custom, pendBase := base }.pend .init) :=
  { h with
    busyPending := by simp
    reservation := nofun
    blockIndex := nofun
    initPending := fun _ => ⟨hi, hc, hf⟩
    lookupPending := nofun
    readPending := nofun
    bases := ⟨h.bases.1, hb, h.bases.2.2⟩
    reservedUnknown := nofun }

/-- The buffer that an INIT chooses is legal, and lies in its memory (R77, R80). -/
theorem Inv.bufferOperand_legal {s : State} (h : Inv s) {cap : Count} {custom : Bool} {base : Word}
    (hb : s.bufferOperand = .ok (cap, custom, base)) :
    LegalCapacity cap ∧ (custom = false → cap.toNat ≤ s.cfg.internalBufBytes) ∧ base.toNat < s.extSize := by
  rcases s.bufferOperand_cases with ⟨hl, e⟩ | ⟨_, _, e⟩ | ⟨_, _, _, e⟩ | ⟨_, hn, e⟩ <;> cases hb.symm.trans e
  · exact ⟨h.customLength.resolve_left hl, nofun, h.bases.1⟩
  · have hle : (capacityOf s.cfg.internalBufBytes).toNat ≤ s.cfg.internalBufBytes := by
      rw [capacityOf_toNat]
      omega
    exact ⟨legalCapacity_capacityOf hn, fun _ => hle, s.extSize_pos⟩

/-- SELECT_FILE waits in Stopped with no file (R75). -/
theorem Inv.pendLookup {s : State} (h : Inv s) (hk : s.pendKind = .none) (hi : s.initDone = true) :
    Inv ({ s.doStop with total := 0 }.pend .lookup) :=
  { h.doStop hk with
    uninitialized := fun hu => by simp [hi] at hu
    consumedTotal := Nat.le_refl _
    blockAligned := fun _ => ⟨rfl, rfl⟩
    busyPending := by simp
    reservation := nofun
    blockIndex := nofun
    initPending := nofun
    lookupPending := fun _ => ⟨hi, rfl, rfl, rfl, rfl, rfl⟩
    readPending := nofun
    reservedUnknown := nofun }

/-- A request is answered: the invariant holds of the idle block where `BLK_IDX` is again the first block not yet
committed. -/
theorem Inv.unpend {s : State} (h : Inv s) {b : Word}
    (hb : s.total ≠ 0#32 → b = s.startBlock + BitVec.ofNat 32 (blocksOf s.consumed.toNat)) :
    Inv { s.unpend with blkIdx := b } :=
  { h with
    busyPending := by simp
    reservation := nofun
    blockIndex := fun _ => hb
    initPending := nofun
    lookupPending := nofun
    readPending := nofun
    reservedUnknown := nofun }

/-- While an INIT or a lookup is pending no file is selected (R75, R77). -/
theorem Inv.unpend_noFile {s : State} (h : Inv s) (ht : s.total = 0#32) : Inv s.unpend :=
  h.unpend fun hn => absurd ht hn

/-- A lookup's answer gives the file that is selected next (R76). -/
theorem Inv.completeLookup {s : State} (h : Inv s) (hk : s.pendKind = .lookup) (start length : Word) :
    Inv { s.unpend with startBlock := start, total := length, consumed := 0, blkIdx := start } := by
  obtain ⟨hi, _, ht, _, hwr, _⟩ := h.lookupPending hk
  exact
    { h.unpend_noFile ht with
      uninitialized := fun hu => by
        have hu : s.initDone = false := hu
        simp [hi] at hu
      consumedTotal := Nat.zero_le _
      blockAligned := fun _ => by simp [hwr]
      blockIndex := fun _ _ => by simp [blocksOf]
      lookupPending := nofun
      readPending := nofun }

/-! ### The invariant: the ring buffer -/

theorem State.cap_pos {s : State} (hc : s.cap ≠ 0#16) : 0 < s.cap.toNat :=
  Nat.pos_of_ne_zero fun h0 => hc (BitVec.eq_of_toNat_eq h0)

/-- A cursor that has moved on inside the ring, as a number (R8). -/
theorem State.ringOff_toNat {s : State} (hc : s.cap ≠ 0#16) (base : Count) (i : Nat) :
    (BitVec.ofNat 16 (s.ringOff base i)).toNat = (base.toNat + i) % s.cap.toNat := by
  rw [BitVec.toNat_ofNat]
  exact Nat.mod_eq_of_lt ((s.ringOff_lt hc base i).trans s.cap.isLt)

/-- Taking `n` occupied bytes off the ring keeps the invariant (R56). -/
theorem Inv.consume {s : State} (h : Inv s) {n : Nat} (hp : s.playing = true) (hn : n ≤ s.occ.toNat)
    (hc : s.cap ≠ 0#16) :
    Inv { s with rd := BitVec.ofNat 16 (s.ringOff s.rd n), occ := s.occ - BitVec.ofNat 16 n } := by
  obtain ⟨hrd, hwr, hcur⟩ := h.cursors hc
  have hle := h.occupancy
  have hocc : (s.occ - BitVec.ofNat 16 n).toNat = s.occ.toNat - n := by
    have := s.occ.isLt
    rw [BitVec.toNat_sub_of_le] <;> simp [BitVec.le_def] <;> omega
  have hrd' := State.ringOff_toNat hc s.rd n
  exact
    { h with
      occupancy := by show (s.occ - BitVec.ofNat 16 n).toNat ≤ s.cap.toNat; omega
      cursors := fun _ => by
        refine ⟨by rw [hrd']; exact Nat.mod_lt _ (State.cap_pos hc), hwr, ?_⟩
        show s.wr.toNat = ((BitVec.ofNat 16 (s.ringOff s.rd n)).toNat + (s.occ - BitVec.ofNat 16 n).toNat) % s.cap.toNat
        rw [hrd', hocc, Nat.mod_add_mod, hcur]
        congr 1
        omega
      noRing := fun h0 => absurd h0 hc
      reservation := fun hr => by
        have := h.reservation hr
        show Config.block ≤ s.cap.toNat - (s.occ - BitVec.ofNat 16 n).toNat
        omega
      lookupPending := fun hr => by
        have := (h.lookupPending hr).2.1
        simp [hp] at this }

/-- `OCC` never exceeds `C`, so the free bytes of R57 are their difference. -/
theorem Inv.free_toNat {s : State} (h : Inv s) : (s.cap - s.occ).toNat = s.cap.toNat - s.occ.toNat :=
  BitVec.toNat_sub_of_le h.occupancy

theorem Inv.unread_toNat {s : State} (h : Inv s) : (s.total - s.consumed).toNat = s.total.toNat - s.consumed.toNat :=
  BitVec.toNat_sub_of_le h.consumedTotal

/-- A legal capacity is a whole number of blocks. -/
theorem Inv.cap_mod_block {s : State} (h : Inv s) : s.cap.toNat % 512 = 0 := by
  rcases h.capacity with h0 | hl
  · simp [h0]
  · exact hl.1

/-- Committing the block that is owed keeps the invariant (R58, R68): a block short of 512 bytes is the file's last. -/
theorem Inv.commitBlock {s : State} (h : Inv s) (hk : s.pendKind = .read) (hc : s.cap ≠ 0#16) :
    Inv { s.unpend.commitProduce s.commitLength with consumed := s.consumed + BitVec.ofNat 32 s.commitLength } := by
  obtain ⟨hlt, hblk⟩ := h.readPending hk
  obtain ⟨hrd, hwr, hcur⟩ := h.cursors hc
  obtain ⟨hwa, hca⟩ := h.blockAligned hlt
  have hres := h.reservation hk
  have hcm := h.cap_mod_block
  have hm : s.commitLength = min 512 (s.total.toNat - s.consumed.toNat) := by
    rw [State.commitLength, h.unread_toNat, Config.block]
  simp only [Config.block] at hwa hca hres
  generalize s.commitLength = m at hm
  have hocc : (s.occ + BitVec.ofNat 16 m).toNat = s.occ.toNat + m := by
    have := s.cap.isLt
    simp only [BitVec.toNat_add, BitVec.toNat_ofNat]
    omega
  have hcons : (s.consumed + BitVec.ofNat 32 m).toNat = s.consumed.toNat + m := by
    have := s.total.isLt
    simp only [BitVec.toNat_add, BitVec.toNat_ofNat]
    omega
  have hwr' := State.ringOff_toNat hc s.wr m
  exact
    { h with
      occupancy := by show (s.occ + BitVec.ofNat 16 m).toNat ≤ s.cap.toNat; omega
      cursors := fun _ => by
        refine ⟨hrd, (hwr'.trans_lt (Nat.mod_lt _ (State.cap_pos hc)):), hwr'.trans ?_⟩
        show _ = (s.rd.toNat + (s.occ + BitVec.ofNat 16 m).toNat) % s.cap.toNat
        rw [hocc, hcur, Nat.mod_add_mod, Nat.add_assoc]
      noRing := fun h0 => absurd h0 hc
      consumedTotal := by show (s.consumed + BitVec.ofNat 32 m).toNat ≤ s.total.toNat; omega
      blockAligned := fun hlt' => by
        replace hlt' : (s.consumed + BitVec.ofNat 32 m).toNat < s.total.toNat := hlt'
        refine ⟨(congrArg (· % 512) hwr').trans ?_, ?_⟩
        · show (s.wr.toNat + m) % s.cap.toNat % 512 = 0
          rw [Nat.mod_mod_of_dvd _ (Nat.dvd_of_mod_eq_zero hcm)]
          omega
        · show (s.consumed + BitVec.ofNat 32 m).toNat % 512 = 0
          omega
      busyPending := by simp
      reservation := nofun
      blockIndex := fun _ _ => by
        have hb : blocksOf (s.consumed.toNat + m) = s.consumed.toNat / 512 + 1 := by unfold blocksOf; omega
        show s.blkIdx = s.startBlock + BitVec.ofNat 32 (blocksOf (s.consumed + BitVec.ofNat 32 m).toNat)
        rw [hcons, hb, hblk, BitVec.ofNat_add, ← BitVec.add_assoc]
        rfl
      initPending := nofun
      lookupPending := nofun
      readPending := nofun
      reservedUnknown := nofun }

/-! ### The invariant: the buffer's memory -/

theorem Inv.bufMem_wf {s : State} (h : Inv s) : Memory.wf s.bufMem := by
  unfold State.bufMem
  split
  · exact h.memories.2
  · exact h.memories.1

theorem Inv.forgetRegion {s : State} (h : Inv s) (hk : s.pendKind ≠ .read) (base : Count) (n : Nat) :
    Inv (s.forgetRegion base n) :=
  h.setBufMem hk (Memory.wf_forget h.bufMem_wf _) fun _ hm => .inl (Memory.mem_forget hm)

/-- Every offset of the ring lies in the active memory (R29). -/
theorem Inv.bufKey_inMemory {s : State} (h : Inv s) {off : Nat} (ho : off < s.cap.toNat) :
    if s.bufCustom then s.bufKey off < s.extSize else s.bufKey off < s.cfg.internalBufBytes := by
  cases hc : s.bufCustom with
  | true => simpa using s.bufKey_custom_lt hc off
  | false => simpa [hc] using ho.trans_le (h.internalFits hc)

theorem Inv.writeRegion {s : State} (h : Inv s) (hk : s.pendKind ≠ .read) (hc : s.cap ≠ 0#16) (base : Count)
    (data : List Byte) : Inv (s.writeRegion base data) := by
  refine h.setBufMem hk (Memory.wf_setAll _ _ _ h.bufMem_wf) fun c hm => (Memory.mem_setAll hm).imp_right ?_
  rintro ⟨j, hj⟩
  rw [hj]
  exact h.bufKey_inMemory (s.ringOff_lt hc base j)

/-- A region's bytes are unknown once forgotten (R30). -/
theorem State.ringByte_forgetRegion {s : State} (base : Count) {n k : Nat} (hk : k < n) :
    (s.forgetRegion base n).ringByte (s.ringOff base k) = none := by
  show Memory.get? (s.forgetRegion base n).bufMem (s.bufKey (s.ringOff base k)) = none
  rw [State.get?_forgetRegion, if_pos]
  exact List.any_eq_true.mpr ⟨k, List.mem_range.mpr hk, beq_self_eq_true _⟩

/-- REFILL's request keeps the invariant: it reserves free bytes whose contents are no longer known (R57, R67). -/
theorem Inv.pendRead {s : State} (h : Inv s) (hb : s.busy = false) (hlt : s.consumed.toNat < s.total.toNat)
    (hf : Config.block ≤ (s.cap - s.occ).toNat) :
    Inv ({ s.forgetRegion s.wr Config.block with blkIdx := s.blkIdx + 1 }.pend .read) := by
  have hr : s.pendKind ≠ .read := by simp [h.nothingPending hb]
  have hca := (h.blockAligned hlt).2
  exact
    { h.forgetRegion hr s.wr Config.block with
      busyPending := by simp
      reservation := fun _ => hf.trans_eq h.free_toNat
      blockIndex := nofun
      initPending := nofun
      lookupPending := nofun
      readPending := fun _ => by
        refine ⟨hlt, ?_⟩
        have ht : s.total ≠ 0#32 := fun h0 => by simp [h0] at hlt
        have hbo : blocksOf s.consumed.toNat = s.consumed.toNat / 512 := by
          simp only [Config.block] at hca
          unfold blocksOf
          omega
        show s.blkIdx + 1 = s.startBlock + BitVec.ofNat 32 (s.consumed.toNat / 512) + 1
        rw [h.blockIndex hb ht, hbo]
      reservedUnknown := fun _ _ hlt => s.ringByte_forgetRegion s.wr hlt }

/-- A completed INIT makes the ring of the latched capacity the active one, empty and in Stopped (R78). -/
theorem Inv.activate {s : State} (h : Inv s) (hk : s.pendKind = .init) (hr st br fg : Bool) :
    Inv { { s.unpend with
        cap := s.pendCap, bufCustom := s.pendCustom, bufBase := s.pendBase, bufForeign := fg
        halfRate := hr, stereo := st, bridge := br, alt := false, startBlock := 0, total := 0 }.doStop with
      initDone := true } := by
  obtain ⟨_, hl, hf⟩ := h.initPending hk
  have hpos : 0 < s.pendCap.toNat := Nat.lt_of_lt_of_le (by decide) hl.2.1
  have hne : s.pendCap ≠ 0#16 := fun h0 => by simp [h0] at hpos
  exact
    { h with
      occupancy := Nat.zero_le _
      cursors := fun _ => ⟨hpos, hpos, by simp⟩
      noRing := fun h0 => absurd h0 hne
      capacity := .inr hl
      capacityInit := ⟨fun h0 => absurd h0 hne, nofun⟩
      oneState := by simp
      uninitialized := nofun
      playingTicks := nofun
      consumedTotal := Nat.zero_le _
      blockAligned := fun _ => ⟨rfl, rfl⟩
      busyPending := by simp
      reservation := nofun
      blockIndex := fun _ ht => absurd rfl ht
      initPending := nofun
      lookupPending := nofun
      readPending := nofun
      bases := ⟨h.bases.1, h.bases.2.1, h.bases.2.1⟩
      internalFits := hf
      startedTicks := nofun
      altHalfRate := fun _ => rfl
      reservedUnknown := nofun }

/-! ### The invariant: the instructions with several outcomes -/

theorem execInit_inv {s : State} (h : Inv s) (mode : Byte) : AnswersWith Inv (execInit mode s) := by
  refine execInit_answersWith h (fun _ => h.fail _ _) fun t cap custom base hb ht hbuf => ?_
  have hk := h.nothingPending hb
  obtain ⟨hc, hf, hbase⟩ := h.bufferOperand_legal hbuf
  rcases ht with ⟨hi, rfl⟩ | ⟨_, rfl⟩
  · exact (h.pendInit hi mode hc hf hbase).congr rfl
  · exact ((h.doDeinit hk).pendInit rfl mode hc hf hbase).congr rfl

theorem execSetBuffer_inv {s : State} (h : Inv s) : AnswersWith Inv (execSetBuffer s) :=
  execSetBuffer_answersWith h (fun _ => h.fail _ _) fun hn => (h.setCustomBuffer hn).succeed

theorem execSelectFile_inv {s : State} (h : Inv s) : AnswersWith Inv (execSelectFile s) :=
  execSelectFile_answersWith h (fun _ => h.fail _ _) fun hb hi => (h.pendLookup (h.nothingPending hb) hi).congr rfl

theorem execPlay_inv {s : State} (h : Inv s) : AnswersWith Inv (execPlay s) := by
  refine execPlay_answersWith h (fun _ => h.fail _ _) fun t hb hi ht => ?_
  have hk := h.nothingPending hb
  rcases ht with rfl | rfl
  · exact (h.start hk hi).succeed
  · exact ((h.doStop hk).start hk hi).succeed

theorem execRefill_inv {s : State} (h : Inv s) : AnswersWith Inv (execRefill s) :=
  execRefill_answersWith h h.succeed (fun hb hlt hf => (h.pendRead hb hlt hf).congr rfl)
    fun hb => (h.doStop (h.nothingPending hb)).succeed

theorem execStgInitResp_inv {s : State} (h : Inv s) (status : Byte) : AnswersWith Inv (execStgInitResp status s) := by
  refine .whenPending_of h fun hk => .ite (answersWith_next ?_) (answersWith_next ?_)
  · have ht : s.total = 0#32 := (h.uninitialized (h.initPending hk).1).2.2
    exact (h.unpend_noFile ht).fail _ _
  · exact ((h.activate hk _ _ _ _).forgetRegion nofun 0 s.pendCap.toNat).succeed

theorem execStgLookupResp_inv {s : State} (h : Inv s) (status : Byte) (start length : Word) :
    AnswersWith Inv (execStgLookupResp status start length s) := by
  refine execStgLookupResp_answersWith h (fun hk => ?_) fun hk => (h.completeLookup hk start length).succeed
  obtain ⟨_, _, ht, _⟩ := h.lookupPending hk
  exact (h.unpend_noFile ht).fail _ _

/-- After a failed read the ring is empty, so that what `BLK_IDX` was before the stop does not matter. -/
theorem execStgReadResp_inv {s s' : State} (h : Inv s) {status : Byte} {data : Vector Byte 512}
    (he : execStgReadResp status data s = .next s') : Inv s' :=
  execStgReadResp_next h
    (fun hk hc => ((h.commitBlock hk hc).writeRegion nofun hc s.wr data.toList).succeed)
    (fun _ => (((h.unpend fun _ => rfl).forgetRegion nofun s.wr Config.block).doStop rfl).fail _ _) s' he

theorem execTick_inv {s s' : State} (h : Inv s) (he : execTick s = .next s') : Inv s' :=
  execTick_next h h.flipAlt (h.flipAlt.congr rfl) (fun hp hn hc => (h.flipAlt.consume hp hn hc).congr rfl) s' he

/-- Every instruction keeps the invariant. -/
theorem exec_inv {i : Instr} {s s' : State} (h : Inv s) (he : exec i s = .next s') : Inv s' := by
  cases i with
  | tick => exact execTick_inv h he
  | stgReadResp status data => exact execStgReadResp_inv h he
  | init mode => exact (execInit_inv h mode).of_next he
  | setBuffer => exact (execSetBuffer_inv h).of_next he
  | selectFile => exact (execSelectFile_inv h).of_next he
  | play => exact (execPlay_inv h).of_next he
  | refill => exact (execRefill_inv h).of_next he
  | stgInitResp status => exact (execStgInitResp_inv h status).of_next he
  | stgLookupResp status start length => exact (execStgLookupResp_inv h status start length).of_next he
  | deinit =>
    have hr := AnswersWith.whenIdle_of h fun hb => answersWith_next (h.doDeinit (h.nothingPending hb)).succeed
    exact hr.of_next he
  | stop =>
    have hr := AnswersWith.whenIdle_of h fun hb => answersWith_next (h.doStop (h.nothingPending hb)).succeed
    exact hr.of_next he
  | pause =>
    have hr := AnswersWith.whenIdle_of h fun hb => answersWith_next (h.togglePlaying (h.nothingPending hb)).succeed
    exact hr.of_next he
  | setCs id => exact (AnswersWith.whenIdle h (answersWith_next (h.congr rfl))).of_next he
  | illegal w => exact (AnswersWith.whenIdle h (answersWith_next (h.fail _ _))).of_next he
  | rdCmd | rdArg0 | rdArg1 | rdStatus | rdUnderrun | rdLasterr | rdMode | rdCapacity | rdOccupied | rdRdPtr | rdWrPtr
  | rdStartBlock | rdTotalBytes | rdBytesConsumed | rdBlockIndex | rdCsId | rdCustomBase | rdCustomLen | rdUnmapped
  | wrArg0 | wrArg1 | wrIgnored =>
    cases he
    exact h.congr rfl

/-- Settles O54: R17's reset values, with an external memory that lists nothing. -/
theorem resetMeetsInvariant : Obligations.ResetMeetsInvariant :=
  fun _ inputs => inv_reset Memory.wf_nil nofun 0 inputs []

/-- Settles O55, by the ways a step answers: a reset, another agent's access, or an instruction. -/
theorem stepKeepsInvariant : Obligations.StepKeepsInvariant := by
  unfold Obligations.StepKeepsInvariant
  intro s s' h hs
  rcases step_cases hs with ⟨_, rfl⟩ | ⟨rest, _, rfl⟩ | ⟨addr, rest, _, rfl⟩ | ⟨addr, rest, _, rfl⟩ | ⟨rest, _, rfl⟩ |
    ⟨_, rest, _, _, rfl⟩ | ⟨_, rest, _, _, _, he⟩
  · exact h
  · exact (h.taking rest).applyReset
  · exact (h.taking rest).foreignAccess addr
  · exact (h.taking rest).foreignWrite addr
  · exact h.taking rest
  · exact h.taking rest
  · exact exec_inv (h.taking rest) he

/-- Every reachable state meets the invariant: it holds after reset and every step keeps it. -/
theorem Reachable.inv {s : State} (hr : Reachable s) : Inv s := by
  induction hr with
  | reset cfg inputs => exact resetMeetsInvariant cfg inputs
  | step _ hs ih => exact stepKeepsInvariant _ _ ih hs

/-- Settles O56: R20's twelve items are part of the invariant. -/
theorem reachableStatesMeetR20 : Obligations.ReachableStatesMeetR20 := fun _ hr => hr.inv.toSpecInv

/-- Settles O52: `step` applies the reset to the state that has taken the event. -/
theorem resetLeavesOnlyWhatIsOutsideTheBlock : Obligations.ResetLeavesOnlyWhatIsOutsideTheBlock := by
  unfold Obligations.ResetLeavesOnlyWhatIsOutsideTheBlock
  intro s rest hd
  rw [step, hd]
  rfl

/-! ### Who writes what -/

/-- Settles O34: by the instruction's rule, each next state it can answer differs from `s` in elements it writes only. -/
theorem elementsChangeOnlyByTheirWriters : Obligations.ElementsChangeOnlyByTheirWriters := by
  unfold Obligations.ElementsChangeOnlyByTheirWriters
  intro i s
  cases i with
  | init mode =>
    refine (execInit_answersWith ?_ ?_ ?_).forall_next
    · simp
    · simp [isCommand]
    · rintro t cap custom base - (⟨-, rfl⟩ | ⟨-, rfl⟩) - <;> simp [mayStop, isCommand]
  | play =>
    refine (execPlay_answersWith ?_ ?_ ?_).forall_next
    · simp
    · simp [isCommand]
    · rintro t - - (rfl | rfl) <;> simp [mayStop, isCommand]
  | setBuffer => refine (execSetBuffer_answersWith ?_ ?_ ?_).forall_next <;> simp [isCommand]
  | selectFile => refine (execSelectFile_answersWith ?_ ?_ ?_).forall_next <;> simp [mayStop, isCommand]
  | refill => refine (execRefill_answersWith ?_ ?_ ?_ ?_).forall_next <;> simp [mayStop, isCommand]
  | stgInitResp status =>
    refine (AnswersWith.whenPending ?_ (.ite (answersWith_next ?_) (answersWith_next ?_))).forall_next <;>
      simp [mayStop, isStorageResponse]
  | stgLookupResp status start length =>
    refine (execStgLookupResp_answersWith ?_ ?_ ?_).forall_next <;> simp [isStorageResponse]
  | stgReadResp status data => refine execStgReadResp_next ?_ ?_ ?_ <;> simp [mayStop, isStorageResponse]
  | tick => refine execTick_next ?_ ?_ ?_ ?_ <;> simp
  | deinit | setCs | pause | stop | illegal =>
    refine (AnswersWith.whenIdle ?_ (answersWith_next ?_)).forall_next <;> simp [mayStop, isCommand]
  | rdCmd | rdArg0 | rdArg1 | rdStatus | rdUnderrun | rdLasterr | rdMode | rdCapacity | rdOccupied | rdRdPtr | rdWrPtr
  | rdStartBlock | rdTotalBytes | rdBytesConsumed | rdBlockIndex | rdCsId | rdCustomBase | rdCustomLen | rdUnmapped
  | wrArg0 | wrArg1 | wrIgnored =>
    refine (answersWith_next ?_).forall_next
    simp

theorem execTick_underrun (s : State) :
    ∀ s', execTick s = .next s' → s'.underrun = s.underrun ∨ s'.underrun = true :=
  execTick_next (.inl rfl) (.inl rfl) (.inr rfl) fun _ _ _ => .inl rfl

/-- What becomes of UNDERRUN: it stays, a tick sets it, or its read clears it (R18, R64, R83). -/
theorem exec_underrun {i : Instr} {s s' : State} (h : exec i s = .next s') :
    s'.underrun = s.underrun ∨ (i = .tick ∧ s'.underrun = true) ∨ (i = .rdUnderrun ∧ s'.underrun = false) := by
  by_cases hu : s'.underrun = s.underrun
  · exact .inl hu
  obtain ⟨_, _, hwriter, _⟩ := elementsChangeOnlyByTheirWriters i s s' h
  rcases hwriter hu with rfl | rfl
  · exact (execTick_underrun s s' h).imp_right fun hset => .inl ⟨rfl, hset⟩
  · cases h
    exact .inr (.inr ⟨rfl, rfl⟩)

/-- Settles O15, by the ways a step answers: a reset clears UNDERRUN, an instruction does what `exec_underrun` says, and no
other event changes it. -/
theorem underrunStaysUntilRead : Obligations.UnderrunStaysUntilRead := by
  unfold Obligations.UnderrunStaysUntilRead
  intro s s' h
  have unchanged (hu : s'.underrun = s.underrun) {p q : Prop} :
      (s.underrun = true → s'.underrun = false → p) ∧ (s.underrun = false → s'.underrun = true → q) := by
    constructor <;> intro h₁ h₂ <;> simp [hu, h₁] at h₂
  rcases step_cases h with ⟨_, rfl⟩ | ⟨rest, hd, rfl⟩ | ⟨_, _, _, rfl⟩ | ⟨_, _, _, rfl⟩ | ⟨_, _, rfl⟩ | ⟨_, _, _, _, rfl⟩ |
    ⟨p, rest, i, hd, hp, he⟩
  case inr.inl => exact ⟨fun _ _ => .inl ⟨rest, hd⟩, nofun⟩
  case inr.inr.inr.inr.inr.inr =>
    rcases exec_underrun he with hu | ⟨rfl, hu⟩ | ⟨rfl, hu⟩
    · exact unchanged hu
    · exact ⟨fun _ hf => by simp [hu] at hf, fun _ _ => ⟨p, rest, hd, hp⟩⟩
    · exact ⟨fun _ _ => .inr ⟨p, rest, hd, hp⟩, fun _ hf => by simp [hu] at hf⟩
  all_goals exact unchanged rfl

/-! ### Who sends what -/

theorem exists_read_of_encode {i : Instr} {off : BitVec 8} {be : BitVec 4} (he : encode i = .csr (.read off be))
    (hd : decode (encode i) = .ok i) : ∃ off be, decode (.csr (.read off be)) = .ok i :=
  ⟨off, be, he ▸ hd⟩

theorem decodeRead_csrOffset_unmapped {sel : BitVec 6} (h : 0x12 ≤ sel.toNat) :
    decodeRead (csrOffset sel) = .rdUnmapped sel := by
  unfold decodeRead
  rw [csrSelect_csrOffset]
  split
  case h_19 => rfl
  all_goals omega

/-- A tick's output is one duty write on channel 1, or one on each channel (R63). -/
theorem State.muxOutput_unit_channels (s : State) :
    ∃ b0, muxOutput s.stereo s.bridge (s.peekBytes s.unitSize) = [.dutyWrite .ch1 b0] ∨
      ∃ b1, muxOutput s.stereo s.bridge (s.peekBytes s.unitSize) = [.dutyWrite .ch1 b0, .dutyWrite .ch2 b1] := by
  obtain ⟨b0, b1, e⟩ := s.muxOutput_unit
  rw [e]
  refine ⟨b0, ?_⟩
  cases s.stereo with
  | true => exact .inr ⟨b1, rfl⟩
  | false =>
    cases s.bridge with
    | true => exact .inr ⟨b0, rfl⟩
    | false => exact .inl rfl

/-- Settles O16: by the instruction's rule, each next state it can answer has sent nothing more, or what is the instruction's
own. -/
theorem outputsComeOnlyFromTheirInstructions : Obligations.OutputsComeOnlyFromTheirInstructions := by
  unfold Obligations.OutputsComeOnlyFromTheirInstructions
  intro i s s' hwf
  revert s'
  cases i with
  | tick =>
    exact execTick_next ⟨[], by simp⟩ ⟨[], by simp⟩ ⟨[], by simp⟩ fun hp _ _ =>
      ⟨_, rfl, .inr (.inl ⟨rfl, hp, s.muxOutput_unit_channels⟩)⟩
  | refill =>
    exact (execRefill_answersWith ⟨[], by simp⟩ ⟨[], by simp⟩ (fun _ _ _ => ⟨[.stgRead s.blkIdx s.wr], by simp⟩)
      fun _ => ⟨[], by simp⟩).forall_next
  | init mode =>
    refine (execInit_answersWith ⟨[], by simp⟩ (fun _ => ⟨[], by simp⟩) ?_).forall_next
    rintro t cap custom base - (⟨-, rfl⟩ | ⟨-, rfl⟩) - <;> exact ⟨_, rfl, by simp⟩
  | play =>
    refine (execPlay_answersWith ⟨[], by simp⟩ (fun _ => ⟨[], by simp⟩) ?_).forall_next
    rintro t - - (rfl | rfl) <;> exact ⟨[], by simp⟩
  | selectFile =>
    exact (execSelectFile_answersWith ⟨[], by simp⟩ (fun _ => ⟨[], by simp⟩) fun _ _ =>
      ⟨[.stgLookup s.arg0], by simp⟩).forall_next
  | setBuffer =>
    exact (execSetBuffer_answersWith ⟨[], by simp⟩ (fun _ => ⟨[], by simp⟩) fun _ => ⟨[], by simp⟩).forall_next
  | stgInitResp status =>
    exact (AnswersWith.whenPending ⟨[], by simp⟩
      (.ite (answersWith_next ⟨[], by simp⟩) (answersWith_next ⟨[], by simp⟩))).forall_next
  | stgLookupResp status start length =>
    exact (execStgLookupResp_answersWith ⟨[], by simp⟩ (fun _ => ⟨[], by simp⟩) fun _ => ⟨[], by simp⟩).forall_next
  | stgReadResp status data =>
    exact execStgReadResp_next ⟨[], by simp⟩ (fun _ _ => ⟨[], by simp⟩) fun _ => ⟨[], by simp⟩
  | deinit | setCs | pause | stop | illegal =>
    exact (AnswersWith.whenIdle ⟨[], by simp⟩ (answersWith_next ⟨[], by simp⟩)).forall_next
  | wrArg0 | wrArg1 | wrIgnored => exact (answersWith_next ⟨[], by simp⟩).forall_next
  | rdUnmapped sel =>
    have hsel : 0x12 ≤ sel.toNat := by simpa [Instr.wf] using hwf
    have hd : decode (encode (.rdUnmapped sel)) = .ok (.rdUnmapped sel) :=
      congrArg Except.ok (decodeRead_csrOffset_unmapped hsel)
    rintro _ ⟨⟩
    exact ⟨_, rfl, .inr (.inr (.inr (.inr (.inr ⟨exists_read_of_encode rfl hd, _, rfl⟩))))⟩
  | rdCmd | rdArg0 | rdArg1 | rdStatus | rdUnderrun | rdLasterr | rdMode | rdCapacity | rdOccupied | rdRdPtr | rdWrPtr
  | rdStartBlock | rdTotalBytes | rdBytesConsumed | rdBlockIndex | rdCsId | rdCustomBase | rdCustomLen =>
    rintro _ ⟨⟩
    exact ⟨_, rfl, .inr (.inr (.inr (.inr (.inr ⟨exists_read_of_encode rfl rfl, _, rfl⟩))))⟩

/-! ### The reserved bytes -/

/-- A byte that is not known reads as the free value, whether or not the buffer is reliable (log 4, log 6). -/
theorem State.memRead_of_unknown {s : State} {off : Nat} (h : s.ringByte off = none) :
    s.memRead off = Config.freeByte s.draws off := by
  have h : Memory.get? s.bufMem (s.bufKey off) = none := h
  rw [State.memRead, h]
  exact ite_self _

/-- The reserved bytes start where the occupied ones end (R20 item 2). -/
theorem Inv.ringOff_wr {s : State} (h : Inv s) (hc : s.cap ≠ 0#16) (k : Nat) :
    s.ringOff s.wr k = s.ringOff s.rd (s.occ.toNat + k) := by
  obtain ⟨_, _, hwr⟩ := h.cursors hc
  rw [State.ringOff, State.ringOff, hwr, Nat.mod_add_mod, Nat.add_assoc]

/-- No occupied byte is among the reserved ones: `OCC` and the reservation fit in the ring together (R20 item 10). -/
theorem Inv.occupied_ne_reserved {s : State} (h : Inv s) (hk : s.pendKind = .read) {i k : Nat} (hi : i < s.occ.toNat)
    (hlt : k < 512) : s.ringOff s.rd i ≠ s.ringOff s.wr k := by
  have hres : 512 ≤ s.cap.toNat - s.occ.toNat := h.reservation hk
  have hc : s.cap ≠ 0#16 := fun h0 => by simp [h0] at hres
  intro he
  rw [h.ringOff_wr hc k] at he
  have := s.ringOff_inj s.rd (by omega) (by omega) he
  omega

/-- Settles O50: the request forgets the reserved bytes, the invariant keeps them unknown, and they are not occupied. -/
theorem reservedBytesBelongToStorage : Obligations.ReservedBytesBelongToStorage := by
  unfold Obligations.ReservedBytesBelongToStorage
  refine ⟨fun s => ?_, fun s h hk k hlt => ?_⟩
  · refine (execRefill_answersWith ?_ ?_ ?_ ?_).forall_next
    · exact fun hb hb' => by simp [hb] at hb'
    · exact fun hb hb' => by simp [hb] at hb'
    · exact fun _ _ _ _ _ k hlt => s.ringByte_forgetRegion s.wr hlt
    · exact fun _ hb hb' => by simp [hb] at hb'
  · exact ⟨State.memRead_of_unknown (h.reservedUnknown hk k hlt), fun i hi => h.occupied_ne_reserved hk hi hlt⟩

/-! ### What the contents of the buffer memory can reach -/

/-- Where the first meaning goes on the second goes on too, and `R` holds of their next states. -/
def GoAlike (R : State → State → Prop) (r r' : Result) : Prop := ∀ u, r = .next u → ∃ u', r' = .next u' ∧ R u u'

theorem goAlike_next {R : State → State → Prop} {u u' : State} (h : R u u') : GoAlike R (.next u) (.next u') := by
  rintro _ ⟨⟩
  exact ⟨u', rfl, h⟩

theorem GoAlike.ite {R : State → State → Prop} {c : Prop} [Decidable c] {r₁ r₂ r₁' r₂' : Result}
    (h₁ : GoAlike R r₁ r₁') (h₂ : GoAlike R r₂ r₂') : GoAlike R (if c then r₁ else r₂) (if c then r₁' else r₂') := by
  split
  · exact h₁
  · exact h₂

theorem goAlike_fault {R : State → State → Prop} {f : Fault} {r : Result} : GoAlike R (.fault f) r := by
  rintro _ ⟨⟩

theorem execInit_goAlike (mode : Byte) (s : State) (ram ext : Memory) :
    GoAlike SameButMemory (execInit mode s) (execInit mode { s with ram := ram, ext := ext }) := by
  have hbuf : ({ s with ram := ram, ext := ext } : State).bufferOperand = s.bufferOperand := rfl
  refine .ite (goAlike_next rfl) (.ite (goAlike_next rfl) ?_)
  rw [hbuf]
  cases s.bufferOperand with
  | error code => exact goAlike_next rfl
  | ok buf =>
    refine goAlike_next ?_
    by_cases hi : s.initDone = true
    · simp only [if_pos hi]
      rfl
    · simp only [if_neg hi]
      rfl

theorem execPlay_goAlike (s : State) (ram ext : Memory) :
    GoAlike SameButMemory (execPlay s) (execPlay { s with ram := ram, ext := ext }) := by
  refine .ite (goAlike_next rfl) (.ite (goAlike_next rfl) (.ite (goAlike_next rfl) (goAlike_next ?_)))
  dsimp only
  cases s.playing <;> rfl

theorem execRefill_goAlike (s : State) (ram ext : Memory) :
    GoAlike SameButMemory (execRefill s) (execRefill { s with ram := ram, ext := ext }) := by
  have hres : ({ s with ram := ram, ext := ext } : State).reserveProduce Config.block = s.reserveProduce Config.block := rfl
  refine .ite (goAlike_next rfl) (.ite (goAlike_next rfl) (.ite ?_ (.ite (goAlike_next rfl) (goAlike_next rfl))))
  rw [hres]
  cases s.reserveProduce Config.block with
  | none => exact goAlike_next rfl
  | some wr => exact goAlike_next rfl

/-- Every instruction but TICK goes on alike whatever the memories hold: no guard and no register reads them (R28). -/
theorem exec_goAlike {i : Instr} (ht : i ≠ .tick) (s : State) (ram ext : Memory) :
    GoAlike SameButMemory (exec i s) (exec i { s with ram := ram, ext := ext }) := by
  cases i with
  | tick => exact absurd rfl ht
  | init mode => exact execInit_goAlike mode s ram ext
  | play => exact execPlay_goAlike s ram ext
  | refill => exact execRefill_goAlike s ram ext
  | setBuffer => exact .ite (goAlike_next rfl) (.ite (goAlike_next rfl) (.ite (goAlike_next rfl) (goAlike_next rfl)))
  | selectFile => exact .ite (goAlike_next rfl) (.ite (goAlike_next rfl) (goAlike_next rfl))
  | stgReadResp status data =>
    exact .ite (.ite (.ite goAlike_fault (goAlike_next rfl)) (goAlike_next rfl)) (goAlike_next rfl)
  | stgInitResp | stgLookupResp => exact .ite (.ite (goAlike_next rfl) (goAlike_next rfl)) (goAlike_next rfl)
  | deinit | setCs | pause | stop | illegal => exact .ite (goAlike_next rfl) (goAlike_next rfl)
  | rdCmd | rdArg0 | rdArg1 | rdStatus | rdUnderrun | rdLasterr | rdMode | rdCapacity | rdOccupied | rdRdPtr | rdWrPtr
  | rdStartBlock | rdTotalBytes | rdBytesConsumed | rdBlockIndex | rdCsId | rdCustomBase | rdCustomLen | rdUnmapped
  | wrArg0 | wrArg1 | wrIgnored => exact goAlike_next rfl

/-- The states go on alike but for what the duty writes carry. -/
def SameButDutyValues (u u' : State) : Prop :=
  SameButMemoryAndOutputs u u' ∧ u'.outs.map Output.shape = u.outs.map Output.shape

/-- Which channels a unit is sent to does not depend on its bytes (R63). -/
theorem State.muxOutput_unit_shape {s t : State} (hs : t.stereo = s.stereo) (hb : t.bridge = s.bridge) :
    (muxOutput t.stereo t.bridge (t.peekBytes t.unitSize)).map Output.shape =
      (muxOutput s.stereo s.bridge (s.peekBytes s.unitSize)).map Output.shape := by
  obtain ⟨_, _, es⟩ := s.muxOutput_unit
  obtain ⟨_, _, et⟩ := t.muxOutput_unit
  rw [es, et, hs, hb]
  cases s.stereo with
  | true => rfl
  | false => cases s.bridge <;> rfl

theorem outputUnit_goAlike (s : State) (ram ext : Memory) :
    GoAlike SameButDutyValues s.outputUnit ({ s with ram := ram, ext := ext } : State).outputUnit := by
  let t : State := { s with ram := ram, ext := ext }
  show GoAlike _ _ t.outputUnit
  unfold State.outputUnit
  rcases s.tryPeekConsume_cases s.unitSize with ⟨hn, e⟩ | ⟨_, _, e⟩ | ⟨hn, hc, e⟩ <;> rw [e]
  · have e' : t.tryPeekConsume t.unitSize = .insufficient := if_pos hn
    rw [e']
    exact goAlike_next ⟨rfl, rfl⟩
  · exact goAlike_fault
  · have e' : t.tryPeekConsume t.unitSize = .taken (t.peekBytes t.unitSize)
        { t with rd := BitVec.ofNat 16 (s.ringOff s.rd s.unitSize), occ := s.occ - BitVec.ofNat 16 s.unitSize } :=
      (if_neg (Nat.not_lt_of_le hn)).trans (if_neg hc)
    rw [e']
    refine goAlike_next ⟨rfl, ?_⟩
    simp only [State.emitAll_outs, List.map_append]
    exact congrArg _ (State.muxOutput_unit_shape (s := s) (t := t) rfl rfl)

theorem execTick_goAlike (s : State) (ram ext : Memory) :
    GoAlike SameButDutyValues (execTick s) (execTick { s with ram := ram, ext := ext }) :=
  .ite (goAlike_next ⟨rfl, rfl⟩) (.ite (goAlike_next ⟨rfl, rfl⟩) (outputUnit_goAlike s.flipAlt ram ext))

/-- Settles O45: two states that differ only in their memories meet the same branch of every meaning. -/
theorem bufferContentsReachOnlyTheDutyPort : Obligations.BufferContentsReachOnlyTheDutyPort := by
  unfold Obligations.BufferContentsReachOnlyTheDutyPort
  refine ⟨fun i s t s' ht hst h => ?_, fun s t s' hst h => ?_⟩
  · rw [hst]
    exact exec_goAlike ht s t.ram t.ext s' h
  · rw [hst]
    exact execTick_goAlike s t.ram t.ext s' h

end Sys2Proof.Machine

/-! PROOF. Family 20_memory: the ring and its occupied bytes (O10, O11, O12, O58), the read response (O18), CSR accesses and the
clock cycle (O5, O7), Stop and the ticks after it (O21), the arguments (O35), and another agent's accesses (O47, O48, O49). -/

namespace Sys2Proof.Machine

/-! ### The contents of the ring -/

theorem State.bufWraps_internal {s : State} (h : s.bufCustom = false) : s.bufWraps = false := by
  simp [State.bufWraps, h]

/-- The `n` bytes from cursor `base` on, by the addresses of their offsets. -/
theorem State.inRegion_iff {s : State} {base : Count} {n a : Nat} :
    s.inRegion base n a = true ↔ ∃ k, k < n ∧ s.bufKey (s.ringOff base k) = a := by
  simp [State.inRegion]

theorem State.inRegion_eq_false {s : State} {base : Count} {n a : Nat}
    (h : ∀ k, k < n → s.bufKey (s.ringOff base k) ≠ a) : s.inRegion base n a = false :=
  Bool.eq_false_of_not_eq_true fun ht =>
    let ⟨k, hk, he⟩ := State.inRegion_iff.mp ht
    h k hk he

/-- No occupied byte lies in the 512 bytes that a reservation takes, where the ring's region does not wrap (R57). -/
theorem Inv.inRegion_occupied {s : State} (h : Inv s) (hres : 512 ≤ s.cap.toNat - s.occ.toNat) (hw : s.bufWraps = false)
    {i : Nat} (hi : i < s.occ.toNat) : s.inRegion s.wr 512 (s.bufKey (s.ringOff s.rd i)) = false := by
  have hc : s.cap ≠ 0#16 := fun h0 => by simp [h0] at hres
  refine State.inRegion_eq_false fun k hlt he => ?_
  have hoff := s.bufKey_inj hw (s.ringOff_lt hc _ _) (s.ringOff_lt hc _ _) he
  rw [h.ringOff_wr hc k] at hoff
  have := s.ringOff_inj s.rd (by omega) (by omega) hoff
  omega

theorem State.occ_consume {s : State} {n : Nat} (hn : n ≤ s.occ.toNat) :
    (s.occ - BitVec.ofNat 16 n).toNat = s.occ.toNat - n := by
  have := s.occ.isLt
  rw [BitVec.toNat_sub_of_le] <;> simp [BitVec.le_def] <;> omega

/-- The oldest `n` bytes, and what is left of the queue once they are taken (R56). -/
theorem State.queue_consume {s : State} {n : Nat} (hn : n ≤ s.occ.toNat) (hc : s.cap ≠ 0#16) :
    s.queue = ((List.range n).map fun i => s.ringByte (s.ringOff s.rd i)) ++
      State.queue { s with rd := BitVec.ofNat 16 (s.ringOff s.rd n), occ := s.occ - BitVec.ofNat 16 n } := by
  have hoff (i : Nat) :
      ((BitVec.ofNat 16 (s.ringOff s.rd n)).toNat + i) % s.cap.toNat = s.ringOff s.rd (n + i) := by
    rw [State.ringOff_toNat hc, Nat.mod_add_mod, Nat.add_assoc, State.ringOff]
  obtain ⟨m, hm⟩ := Nat.exists_eq_add_of_le hn
  have hrest : State.queue { s with rd := BitVec.ofNat 16 (s.ringOff s.rd n), occ := s.occ - BitVec.ofNat 16 n } =
      (List.range m).map fun i => s.ringByte (s.ringOff s.rd (n + i)) := by
    show (List.range (s.occ - BitVec.ofNat 16 n).toNat).map (fun i =>
      s.ringByte (((BitVec.ofNat 16 (s.ringOff s.rd n)).toNat + i) % s.cap.toNat)) = _
    simp only [hoff, State.occ_consume hn, hm, Nat.add_sub_cancel_left]
  rw [hrest, State.queue, hm, List.range_add, List.map_append, List.map_map]
  rfl

/-- The occupancy after the block that is owed is committed: it does not overflow (R58). -/
theorem Inv.occ_commit {s : State} (h : Inv s) (hk : s.pendKind = .read) :
    (s.occ + BitVec.ofNat 16 s.commitLength).toNat = s.occ.toNat + s.commitLength := by
  have hres : 512 ≤ s.cap.toNat - s.occ.toNat := h.reservation hk
  have hm : s.commitLength ≤ 512 := Nat.min_le_left _ _
  have := s.cap.isLt
  simp only [BitVec.toNat_add, BitVec.toNat_ofNat]
  omega

/-- Storing and committing the block that is owed appends its committed bytes to the queue, in order (R55, R58, R68). -/
theorem Inv.queue_storeBlock {s : State} (h : Inv s) (hk : s.pendKind = .read) (hw : s.bufWraps = false)
    (data : Vector Byte 512) :
    ((s.unpend.writeRegion s.wr data.toList).commitProduce s.commitLength).queue =
      s.queue ++ (data.toList.take s.commitLength).map some := by
  have hres : 512 ≤ s.cap.toNat - s.occ.toNat := h.reservation hk
  have hm : s.commitLength ≤ 512 := Nat.min_le_left _ _
  have hc : s.cap ≠ 0#16 := fun h0 => by simp [h0] at hres
  have hlen : data.toList.length = 512 := data.size_toArray
  let t := s.unpend.writeRegion s.wr data.toList
  have hold (i : Nat) (hi : i < s.occ.toNat) : t.ringByte (s.ringOff s.rd i) = s.ringByte (s.ringOff s.rd i) :=
    s.unpend.writeRegion_outside s.wr data.toList (hlen.symm ▸ h.inRegion_occupied hres hw hi)
  have hnew (i : Nat) (hi : i < s.commitLength) :
      t.ringByte (s.ringOff s.rd (s.occ.toNat + i)) = some (data.toList[i]'(by omega)) := by
    rw [← h.ringOff_wr hc i]
    exact State.writeRegion_inside (s := s.unpend) s.wr data.toList hw (by simp; omega) i (by omega)
  show (List.range (s.occ + BitVec.ofNat 16 s.commitLength).toNat).map (fun i => t.ringByte (s.ringOff s.rd i)) = _
  rw [h.occ_commit hk, List.range_add, List.map_append, List.map_map]
  congr 1
  · exact List.map_congr_left fun i hi => hold i (List.mem_range.mp hi)
  · refine List.ext_getElem (by simp; omega) fun i hi _ => ?_
    simpa using hnew i (by simpa using hi)

/-! ### What an instruction can do to the ring (R38, R39) -/

/-- The ring as the block sees it: the cursors, the occupancy, which memory it lies in, and the occupied bytes. -/
def State.ring (s : State) : Count × Count × Count × Bool × List (Option Byte) :=
  (s.rd, s.wr, s.occ, s.bufCustom, s.queue)

theorem State.ring_eq_iff {s t : State} : t.ring = s.ring ↔
    t.rd = s.rd ∧ t.wr = s.wr ∧ t.occ = s.occ ∧ t.bufCustom = s.bufCustom ∧ t.queue = s.queue := by
  simp [State.ring]

/-- Stop has been made, by the instruction `i` (R72): only PLAY goes on playing (R73). -/
def StoppedBy (i : Instr) (t : State) : Prop :=
  t.occ = 0#16 ∧ t.rd = 0#16 ∧ t.wr = 0#16 ∧ t.consumed = 0#32 ∧ t.playing = (i == .play)

/-- What an instruction that answers `t` has done to the ring of `s`: nothing, the taking of a unit, the reservation of a block,
the storing and committing of one, or a Stop. -/
def RingEffect (i : Instr) (s t : State) : Prop :=
  t.ring = s.ring ∨
  (i = .tick ∧ s.unitSize ≤ s.occ.toNat ∧ s.cap ≠ 0#16 ∧ t.ring = State.ring { s with
    rd := BitVec.ofNat 16 (s.ringOff s.rd s.unitSize), occ := s.occ - BitVec.ofNat 16 s.unitSize }) ∨
  (i = .refill ∧ 512 ≤ (s.cap - s.occ).toNat ∧ t.ring = (s.forgetRegion s.wr 512).ring) ∨
  (∃ data, i = .stgReadResp 0 data ∧ s.pendKind = .read ∧
    t.ring = ((s.unpend.writeRegion s.wr data.toList).commitProduce s.commitLength).ring) ∨
  StoppedBy i t

theorem ringEffect_unchanged {i : Instr} {s t : State} (h : t.ring = s.ring) : RingEffect i s t := .inl h

theorem ringEffect_stopped {i : Instr} {s t : State} (h : StoppedBy i t) : RingEffect i s t := .inr (.inr (.inr (.inr h)))

theorem execStgReadResp_ringEffect (status : Byte) (data : Vector Byte 512) (s : State) :
    ∀ s', execStgReadResp status data s = .next s' → RingEffect (.stgReadResp status data) s s' := by
  intro s' h
  rcases execStgReadResp_cases status data s with ⟨_, e⟩ | ⟨_, _, _, e⟩ | ⟨hk, rfl, _, e⟩ | ⟨_, _, e⟩ <;>
    cases h.symm.trans e
  · exact ringEffect_unchanged rfl
  · exact .inr (.inr (.inr (.inl ⟨data, rfl, hk, rfl⟩)))
  · exact ringEffect_stopped ⟨rfl, rfl, rfl, rfl, rfl⟩

theorem exec_ringEffect (i : Instr) (s : State) : ∀ s', exec i s = .next s' → RingEffect i s s' := by
  have same (i : Instr) : RingEffect i s s := ringEffect_unchanged rfl
  cases i with
  | tick =>
    exact execTick_next (same _) (ringEffect_unchanged rfl) (ringEffect_unchanged rfl) fun _ hn hc =>
      .inr (.inl ⟨rfl, hn, hc, rfl⟩)
  | stgReadResp status data => exact execStgReadResp_ringEffect status data s
  | refill =>
    exact (execRefill_answersWith (same _) (ringEffect_unchanged rfl)
      (fun _ _ hf => .inr (.inr (.inl ⟨rfl, hf, rfl⟩)))
      fun _ => ringEffect_stopped ⟨rfl, rfl, rfl, rfl, rfl⟩).forall_next
  | init mode =>
    refine (execInit_answersWith (same _) (fun _ => ringEffect_unchanged rfl) ?_).forall_next
    rintro t cap custom base - (⟨-, rfl⟩ | ⟨-, rfl⟩) -
    · exact ringEffect_unchanged rfl
    · exact ringEffect_stopped ⟨rfl, rfl, rfl, rfl, rfl⟩
  | play =>
    refine (execPlay_answersWith (same _) (fun _ => ringEffect_unchanged rfl) ?_).forall_next
    rintro t - - (rfl | rfl)
    · exact ringEffect_unchanged rfl
    · exact ringEffect_stopped ⟨rfl, rfl, rfl, rfl, rfl⟩
  | selectFile =>
    exact (execSelectFile_answersWith (same _) (fun _ => ringEffect_unchanged rfl)
      fun _ _ => ringEffect_stopped ⟨rfl, rfl, rfl, rfl, rfl⟩).forall_next
  | stgInitResp status =>
    refine (AnswersWith.whenPending (same _) (.ite (answersWith_next ?_) (answersWith_next ?_))).forall_next
    · exact ringEffect_unchanged rfl
    · exact ringEffect_stopped ⟨rfl, rfl, rfl, rfl, rfl⟩
  | deinit | stop =>
    exact (AnswersWith.whenIdle (same _) (answersWith_next (ringEffect_stopped ⟨rfl, rfl, rfl, rfl, rfl⟩))).forall_next
  | setBuffer =>
    exact (execSetBuffer_answersWith (same _) (fun _ => ringEffect_unchanged rfl)
      fun _ => ringEffect_unchanged rfl).forall_next
  | stgLookupResp status start length =>
    exact (execStgLookupResp_answersWith (same _) (fun _ => ringEffect_unchanged rfl)
      fun _ => ringEffect_unchanged rfl).forall_next
  | setCs | pause | illegal =>
    refine (AnswersWith.whenIdle (same _) (answersWith_next ?_)).forall_next
    exact ringEffect_unchanged rfl
  | rdCmd | rdArg0 | rdArg1 | rdStatus | rdUnderrun | rdLasterr | rdMode | rdCapacity | rdOccupied | rdRdPtr | rdWrPtr
  | rdStartBlock | rdTotalBytes | rdBytesConsumed | rdBlockIndex | rdCsId | rdCustomBase | rdCustomLen | rdUnmapped
  | wrArg0 | wrArg1 | wrIgnored =>
    rintro _ ⟨⟩
    exact ringEffect_unchanged rfl

/-- Settles O11: each effect on the ring changes `OCC` in one of R38's ways, and a reservation does not. -/
theorem occupancyChangesInThreeWays : Obligations.OccupancyChangesInThreeWays := by
  unfold Obligations.OccupancyChangesInThreeWays
  intro i s s' h
  rcases exec_ringEffect i s s' h with e | ⟨rfl, _, _, e⟩ | ⟨rfl, _, e⟩ | ⟨data, rfl, hk, e⟩ | hs
  case inr.inr.inr.inr => exact .inr (.inr (.inr hs))
  all_goals obtain ⟨_, _, hocc, _⟩ := State.ring_eq_iff.mp e
  · exact .inl hocc
  · refine .inr (.inl ⟨rfl, hocc.trans ?_⟩)
    cases hst : s.stereo <;> simp [State.unitSize, hst]
  · exact .inl hocc
  · exact .inr (.inr (.inl ⟨data, rfl, hk, hocc⟩))

/-- Settles O12: but for Stop, `RD` moves with the taking of a unit only, and `WR` with the commit of a block only. -/
theorem cursorOwnership : Obligations.CursorOwnership := by
  unfold Obligations.CursorOwnership
  intro i s s' h
  rcases exec_ringEffect i s s' h with e | ⟨rfl, _, _, e⟩ | ⟨rfl, _, e⟩ | ⟨data, rfl, hk, e⟩ | ⟨hocc, hrd, hwr, hcon, _⟩
  case inr.inr.inr.inr => exact .inl ⟨hrd, hwr, hocc, hcon⟩
  all_goals obtain ⟨hrd, hwr, _⟩ := State.ring_eq_iff.mp e
  · exact .inr ⟨fun hn => absurd hrd hn, fun hn => absurd hwr hn⟩
  · exact .inr ⟨fun _ => rfl, fun hn => absurd hwr hn⟩
  · exact .inr ⟨fun hn => absurd hrd hn, fun hn => absurd hwr hn⟩
  · exact .inr ⟨fun hn => absurd hrd hn, fun _ => ⟨data, rfl⟩⟩

/-! ### Occupied bytes of an internal ring stay known (R30, R40) -/

theorem occupiedKnown_of_empty {s : State} (h : s.occ = 0#16) : OccupiedKnown s := by
  intro _ b hb
  simp [State.queue, h] at hb

theorem OccupiedKnown.congr {s t : State} (h : OccupiedKnown s) (e : t.ring = s.ring) : OccupiedKnown t := by
  obtain ⟨_, _, _, hcustom, hqueue⟩ := State.ring_eq_iff.mp e
  rw [OccupiedKnown, hcustom, hqueue]
  exact h

/-- Taking bytes off the queue leaves those that remain known. -/
theorem OccupiedKnown.consume {s : State} (h : OccupiedKnown s) {n : Nat} (hn : n ≤ s.occ.toNat) (hc : s.cap ≠ 0#16) :
    OccupiedKnown { s with rd := BitVec.ofNat 16 (s.ringOff s.rd n), occ := s.occ - BitVec.ofNat 16 n } := by
  intro hi b hb
  refine h hi b ?_
  rw [State.queue_consume hn hc]
  exact List.mem_append_right _ hb

/-- The block that is owed adds known bytes. -/
theorem OccupiedKnown.storeBlock {s : State} (h : OccupiedKnown s) (hinv : Inv s) (hk : s.pendKind = .read)
    (data : Vector Byte 512) :
    OccupiedKnown ((s.unpend.writeRegion s.wr data.toList).commitProduce s.commitLength) := by
  intro hi b hb
  rw [hinv.queue_storeBlock hk (State.bufWraps_internal hi)] at hb
  rcases List.mem_append.mp hb with hb | hb
  · exact h hi b hb
  · obtain ⟨y, _, rfl⟩ := List.mem_map.mp hb
    simp

/-- A reservation forgets free bytes only. -/
theorem OccupiedKnown.reserve {s : State} (h : OccupiedKnown s) (hinv : Inv s) (hf : 512 ≤ (s.cap - s.occ).toNat) :
    OccupiedKnown (s.forgetRegion s.wr 512) := by
  intro hi b hb
  refine h hi b ?_
  obtain ⟨i, hlt, rfl⟩ := List.mem_map.mp hb
  have hout := hinv.inRegion_occupied (hinv.free_toNat ▸ hf) (State.bufWraps_internal hi) (List.mem_range.mp hlt)
  have hkeep : (s.forgetRegion s.wr 512).ringByte (s.ringOff s.rd i) = s.ringByte (s.ringOff s.rd i) :=
    (s.get?_forgetRegion _ _ _).trans (if_neg (Bool.eq_false_iff.mp hout))
  exact List.mem_map.mpr ⟨i, hlt, hkeep.symm⟩

theorem exec_occupiedKnown {i : Instr} {s s' : State} (hinv : Inv s) (h : OccupiedKnown s) (he : exec i s = .next s') :
    OccupiedKnown s' := by
  rcases exec_ringEffect i s s' he with e | ⟨rfl, hn, hc, e⟩ | ⟨rfl, hf, e⟩ | ⟨data, rfl, hk, e⟩ | ⟨hocc, _⟩
  · exact h.congr e
  · exact (h.consume hn hc).congr e
  · exact (h.reserve hinv hf).congr e
  · exact (h.storeBlock hinv hk data).congr e
  · exact occupiedKnown_of_empty hocc

/-- Another agent's write can only lose bytes of the external memory, which an internal ring does not use (R29, R43). -/
theorem OccupiedKnown.foreignWrite {s : State} (h : OccupiedKnown s) (addr : Word) :
    OccupiedKnown (s.foreignWrite addr) := by
  intro hi
  have hi : s.bufCustom = false := hi
  have hqueue : (s.foreignWrite addr).queue = s.queue := by
    have hmem : (s.foreignWrite addr).bufMem = s.bufMem := by simp [State.bufMem, hi]
    show (List.range s.occ.toNat).map (fun i => Memory.get? (s.foreignWrite addr).bufMem (s.bufKey (s.ringOff s.rd i))) = _
    rw [hmem]
    rfl
  rw [hqueue]
  exact h hi

/-- Settles O58, by the ways a step answers: a reset empties the ring, and another agent reaches external memory only. -/
theorem occupiedBytesStayKnown : Obligations.OccupiedBytesStayKnown := by
  unfold Obligations.OccupiedBytesStayKnown
  intro s s' hinv h hs
  have ht (rest : List Arrival) : OccupiedKnown (s.taking rest) := h
  rcases step_cases hs with ⟨_, rfl⟩ | ⟨rest, _, rfl⟩ | ⟨addr, rest, _, rfl⟩ | ⟨addr, rest, _, rfl⟩ | ⟨rest, _, rfl⟩ |
    ⟨_, rest, _, _, rfl⟩ | ⟨_, rest, _, _, _, he⟩
  · exact h
  · exact occupiedKnown_of_empty rfl
  · exact ht rest
  · exact (ht rest).foreignWrite addr
  · exact ht rest
  · exact ht rest
  · exact exec_occupiedKnown (hinv.taking rest) (ht rest) he

/-! ### What is read from the buffer (R30, R35, R43) -/

/-- What makes a custom buffer unreliable (log 6): another agent's access, a region that wraps, or one that overlaps. -/
theorem State.bufUnreliable_iff (s : State) : s.bufUnreliable = true ↔ s.bufCustom = true ∧
    (s.bufForeign = true ∨ 2 ^ s.cfg.addrW.val < s.bufBase.toNat + s.cap.toNat ∨
      ∃ r ∈ s.cfg.otherMemory, r.1 < s.bufBase.toNat + s.cap.toNat ∧ s.bufBase.toNat < r.1 + r.2) := by
  simp only [State.bufUnreliable, State.bufWraps, State.bufOverlaps, Bool.and_eq_true, Bool.or_eq_true, List.any_eq_true,
    decide_eq_true_eq]
  simp only [State.extSize]
  tauto

theorem State.memRead_of_unreliable {s : State} (h : s.bufUnreliable = true) (off : Nat) :
    s.memRead off = Config.freeByte s.draws off := if_pos h

/-- A known byte of a reliable buffer reads as it is. -/
theorem State.memRead_of_known {s : State} (h : s.bufUnreliable = false) {off : Nat} {b : Byte}
    (hb : s.ringByte off = some b) : s.memRead off = b := by
  have hb : Memory.get? s.bufMem (s.bufKey off) = some b := hb
  simp [State.memRead, h, hb]

/-- Settles O49: the second hypothesis denies each thing that makes the buffer unreliable. -/
theorem unreliableBufferReadsAsAnyValue : Obligations.UnreliableBufferReadsAsAnyValue := by
  unfold Obligations.UnreliableBufferReadsAsAnyValue
  refine fun s off => ⟨fun hc hu => State.memRead_of_unreliable (s.bufUnreliable_iff.mpr ⟨hc, hu⟩) off, fun hr => ?_⟩
  have hrel : s.bufUnreliable = false := by
    refine Bool.eq_false_of_not_eq_true fun hu => ?_
    obtain ⟨hc, hu⟩ := s.bufUnreliable_iff.mp hu
    rcases hr with hi | ⟨hf, hw, ho⟩
    · simp [hi] at hc
    · rcases hu with hu | hu | ⟨r, hmem, hlt, hlt'⟩
      · simp [hf] at hu
      · omega
      · have := ho r hmem
        omega
  exact ⟨fun b => State.memRead_of_known hrel, State.memRead_of_unknown⟩

/-! ### The ring is a queue (R55, R56, R68) -/

@[simp] theorem dutyWrites_append (os os' : List Output) : dutyWrites (os ++ os') = dutyWrites os ++ dutyWrites os' :=
  List.filterMap_append

@[simp] theorem dutyWrites_muxOutput_mono (bridge : Bool) (b : Byte) : dutyWrites (muxOutput false bridge [b]) =
    if bridge then [(.ch1, b), (.ch2, b)] else [(.ch1, b)] := by
  cases bridge <;> rfl

theorem execStgReadResp_queue {s s' : State} {data : Vector Byte 512} (h : Inv s) (hw : s.bufWraps = false)
    (hk : s.pendKind = .read) (he : execStgReadResp 0 data s = .next s') :
    s'.queue = s.queue ++ (data.toList.take s.commitLength).map some := by
  rcases execStgReadResp_cases 0 data s with ⟨hn, _⟩ | ⟨_, _, _, e⟩ | ⟨_, _, _, e⟩ | ⟨_, hn, _⟩
  · exact absurd hk hn
  · cases he.symm.trans e
  · cases he.symm.trans e
    exact h.queue_storeBlock hk hw data
  · exact absurd rfl hn

/-- Settles O10: a tick that outputs takes its unit off the queue and sends it, and a stored block is appended. -/
theorem ringIsAQueueOfTheBlocksBytes : Obligations.RingIsAQueueOfTheBlocksBytes := by
  unfold Obligations.RingIsAQueueOfTheBlocksBytes
  refine ⟨fun s s' _ => ?_, fun s s' data h hw hk he => ?_⟩
  · revert s'
    refine execTick_next (.inl ⟨rfl, rfl⟩) (.inl ⟨rfl, rfl⟩) (.inl ⟨rfl, rfl⟩) fun _ hn hc => .inr ?_
    have hq := State.queue_consume hn hc
    have known {i : Nat} (hr : s.bufUnreliable = false) (y : Byte) (hy : s.ringByte (s.ringOff s.rd i) = some y) :
        s.memRead (s.ringOff s.rd i) = y := State.memRead_of_known hr hy
    cases hst : s.stereo with
    | false =>
      have hu : s.unitSize = 1 := by simp [State.unitSize, hst]
      rw [hu] at hq ⊢
      refine .inl ⟨rfl, _, _, hq, known, (dutyWrites_append _ _).trans ?_⟩
      exact congrArg _ (dutyWrites_muxOutput_mono s.bridge (s.memRead (s.ringOff s.rd 0)))
    | true =>
      have hu : s.unitSize = 2 := by simp [State.unitSize, hst]
      rw [hu] at hq ⊢
      exact .inr ⟨rfl, _, _, _, _, hq, fun hr => ⟨known hr, known hr⟩, dutyWrites_append _ _⟩
  · have hm : s.commitLength = min 512 (s.total.toNat - s.consumed.toNat) := by
      rw [State.commitLength, h.unread_toNat, Config.block]
    rw [execStgReadResp_queue h hw hk he, hm]

/-! ### The read response (R68) -/

/-- Replacing the active memory leaves the other one. -/
theorem State.setBufMem_inactive (s : State) (m : Memory) :
    if s.bufCustom then (s.setBufMem m).ram = s.ram else (s.setBufMem m).ext = s.ext := by
  cases hc : s.bufCustom <;> simp [hc]

/-- Settles O18: the answers of `execStgReadResp_cases`, with what a region's write and its loss do to each address. -/
theorem readResponseRule : Obligations.ReadResponseRule := by
  unfold Obligations.ReadResponseRule
  refine ⟨fun _ _ => rfl, fun s status data => ?_⟩
  have hlen : data.toList.length = 512 := data.size_toArray
  rcases execStgReadResp_cases status data s with ⟨hk, e⟩ | ⟨hk, hs, hc, e⟩ | ⟨hk, hs, hc, e⟩ | ⟨hk, hs, e⟩
  · exact ⟨fun _ => e, fun hk' => absurd hk' hk, fun hk' => absurd hk' hk⟩
  · exact ⟨fun hk' => absurd hk hk', fun _ _ hc' => absurd hc hc', fun _ hs' => absurd hs hs'⟩
  · refine ⟨fun hk' => absurd hk hk', fun _ _ _ => ⟨_, e, rfl, s.setBufMem_inactive _, fun a ha => ?_,
      fun hcap hw k hlt => ?_⟩, fun _ hs' => absurd hs hs'⟩
    · exact s.unpend.writeRegion_outside s.wr data.toList (State.inRegion_eq_false (hlen.symm ▸ ha))
    · exact State.writeRegion_inside (s := s.unpend) s.wr data.toList hw (hlen.trans_le hcap) k (hlen.symm ▸ hlt)
  · refine ⟨fun hk' => absurd hk hk', fun _ hs' => absurd hs' hs, fun _ _ => ⟨_, e, rfl, s.setBufMem_inactive _,
      fun a ha => ?_, fun k hlt => s.unpend.ringByte_forgetRegion s.wr hlt⟩⟩
    exact (s.unpend.get?_forgetRegion _ _ a).trans (if_neg (Bool.eq_false_iff.mp (State.inRegion_eq_false ha)))

/-! ### Another agent and the custom buffer (R43, R97) -/

/-- The bytes that belong to the block, by the addresses of their offsets (R43). -/
theorem State.ownsExternal_iff {s : State} {a : Nat} : s.ownsExternal a = true ↔
    s.initDone = true ∧ s.bufCustom = true ∧ ∃ k, k < s.cap.toNat ∧ s.bufKey k = a := by
  have hoff {k : Nat} (hk : k < s.cap.toNat) : s.ringOff 0 k = k := by
    simp [State.ringOff, Nat.mod_eq_of_lt hk]
  rw [State.ownsExternal, Bool.and_eq_true, Bool.and_eq_true, State.inRegion_iff, and_assoc]
  refine and_congr_right fun _ => and_congr_right fun _ => exists_congr fun k => and_congr_right fun hk => ?_
  rw [hoff hk]

/-- Another agent's access is remembered exactly if the byte belongs to the block (log 6). -/
theorem State.foreignAccess_bufForeign_iff {s : State} {addr : Word} :
    (s.foreignAccess addr).bufForeign = true ↔ s.bufForeign = true ∨
      (s.initDone = true ∧ s.bufCustom = true ∧
        ∃ k, k < s.cap.toNat ∧ s.bufKey k = addr.toNat % 2 ^ s.cfg.addrW.val) := by
  rw [← State.ownsExternal_iff, ← Bool.or_eq_true]
  rfl

/-- Settles O47: the write is an access, and forgets the one byte. -/
theorem foreignWriteRule : Obligations.ForeignWriteRule := by
  unfold Obligations.ForeignWriteRule
  intro s addr rest hd
  refine ⟨(s.taking rest).foreignWrite addr, by rw [step, hd], rfl, fun a => ?_,
    State.foreignAccess_bufForeign_iff (s := s.taking rest)⟩
  simpa [State.extSize] using Memory.get?_forget s.ext (fun a => a == addr.toNat % s.extSize) a

/-- No instruction but the awaited success of an INIT touches what is remembered of other agents. -/
theorem exec_bufForeign (i : Instr) (s : State) : ∀ s', exec i s = .next s' →
    s'.bufForeign = s.bufForeign ∨ (s.pendKind = .init ∧ i = .stgInitResp 0) := by
  cases i with
  | tick => exact execTick_next (.inl rfl) (.inl rfl) (.inl rfl) fun _ _ _ => .inl rfl
  | stgReadResp status data => exact execStgReadResp_next (.inl rfl) (fun _ _ => .inl rfl) fun _ => .inl rfl
  | refill =>
    exact (execRefill_answersWith (.inl rfl) (.inl rfl) (fun _ _ _ => .inl rfl) fun _ => .inl rfl).forall_next
  | init mode =>
    refine (execInit_answersWith (.inl rfl) (fun _ => .inl rfl) ?_).forall_next
    rintro t cap custom base - (⟨-, rfl⟩ | ⟨-, rfl⟩) - <;> exact .inl rfl
  | play =>
    refine (execPlay_answersWith (.inl rfl) (fun _ => .inl rfl) ?_).forall_next
    rintro t - - (rfl | rfl) <;> exact .inl rfl
  | selectFile => exact (execSelectFile_answersWith (.inl rfl) (fun _ => .inl rfl) fun _ _ => .inl rfl).forall_next
  | setBuffer => exact (execSetBuffer_answersWith (.inl rfl) (fun _ => .inl rfl) fun _ => .inl rfl).forall_next
  | stgInitResp status =>
    refine (AnswersWith.whenPending_of (.inl rfl) fun hk => .dite (fun _ => answersWith_next (.inl rfl)) fun hs =>
      answersWith_next (.inr ⟨hk, ?_⟩)).forall_next
    exact congrArg _ (not_not.mp hs)
  | stgLookupResp status start length =>
    exact (execStgLookupResp_answersWith (.inl rfl) (fun _ => .inl rfl) fun _ => .inl rfl).forall_next
  | deinit | setCs | pause | stop | illegal =>
    refine (AnswersWith.whenIdle (.inl rfl) (answersWith_next ?_)).forall_next
    exact .inl rfl
  | rdCmd | rdArg0 | rdArg1 | rdStatus | rdUnderrun | rdLasterr | rdMode | rdCapacity | rdOccupied | rdRdPtr | rdWrPtr
  | rdStartBlock | rdTotalBytes | rdBytesConsumed | rdBlockIndex | rdCsId | rdCustomBase | rdCustomLen | rdUnmapped
  | wrArg0 | wrArg1 | wrIgnored =>
    rintro _ ⟨⟩
    exact .inl rfl

/-- Settles O48, by the ways a step answers: an access only adds to what is remembered. -/
theorem foreignWriteLastsUntilRelease : Obligations.ForeignWriteLastsUntilRelease := by
  unfold Obligations.ForeignWriteLastsUntilRelease
  refine ⟨fun s s' h hf => ?_, fun s s' rest hd h => ?_, fun s s' hk h => ?_⟩
  · rcases step_cases h with ⟨_, rfl⟩ | ⟨rest, hd, rfl⟩ | ⟨addr, rest, _, rfl⟩ | ⟨addr, rest, _, rfl⟩ | ⟨rest, _, rfl⟩ |
      ⟨_, rest, _, _, rfl⟩ | ⟨p, rest, i, hd, hp, he⟩
    · exact .inl hf
    · exact .inr (.inl ⟨rest, hd⟩)
    · exact .inl (State.foreignAccess_bufForeign_iff.mpr (.inl hf))
    · exact .inl (State.foreignAccess_bufForeign_iff.mpr (.inl hf))
    · exact .inl hf
    · exact .inl hf
    · rcases exec_bufForeign i _ s' he with hkeep | ⟨hk, rfl⟩
      · exact .inl (hkeep.trans hf)
      · exact .inr (.inr ⟨hk, p, rest, hd, hp⟩)
  · rw [step, hd] at h
    cases h
    rfl
  · have hr : exec (.stgInitResp 0) s = _ := State.whenPending_match hk _
    cases h.symm.trans hr
    rfl

/-! ### CSR accesses (R32, R46) -/

/-- Offset bits 1:0 select nothing. -/
theorem csrSelect_and_mask (off : BitVec 8) : csrSelect (off &&& 0xFC#8) = csrSelect off := by
  revert off
  decide

theorem csrSelect_congr {off off' : BitVec 8} (h : off &&& 0xFC#8 = off' &&& 0xFC#8) : csrSelect off = csrSelect off' := by
  rw [← csrSelect_and_mask off, h, csrSelect_and_mask]

/-- The register selected is all of the offset that a read is decoded by. -/
theorem decodeRead_congr {off off' : BitVec 8} (h : csrSelect off = csrSelect off') : decodeRead off = decodeRead off' := by
  rw [decodeRead, decodeRead, h]

/-- The register selected is all of the offset that a write is decoded by. -/
theorem decodeWrite_congr {off off' : BitVec 8} (h : csrSelect off = csrSelect off') (w : Word) :
    decodeWrite off w = decodeWrite off' w := by
  rw [decodeWrite, decodeWrite, h]

/-- Every read is answered by one word. -/
theorem exec_decodeRead (off : BitVec 8) (s : State) :
    ∃ s' v, exec (decodeRead off) s = .next s' ∧ s'.outs = s.outs ++ [.csrData (Lanes.ofWord v)] := by
  unfold decodeRead
  split <;> exact ⟨_, _, rfl, rfl⟩

theorem exec_command_next {i : Instr} (h : isCommand i = true) (s : State) : ∃ s', exec i s = .next s' := by
  refine (exec_answersWith_cfg ?_ ?_ s).exists_next
  · rintro rfl
    cases h
  · rintro status data rfl
    cases h

/-- Every full write is answered by a next state. -/
theorem exec_decodeWrite (off : BitVec 8) (w : Word) (s : State) : ∃ s', exec (decodeWrite off w) s = .next s' := by
  unfold decodeWrite
  split
  case h_1 => exact exec_command_next (decodeCommand_isCommand w) s
  all_goals exact ⟨_, rfl⟩

theorem step_partialWrite {s : State} {off : BitVec 8} {be : BitVec 4} {d : Lanes} {rest : List Arrival}
    (hd : delivery s.inputs = .port (.csr (.write off be d)) rest) (hbe : be ≠ 0xF#4) : step s = .next (s.taking rest) := by
  rw [step, hd]
  dsimp only
  rw [decode_partialWrite off d hbe]

theorem step_csrRead {s : State} {off : BitVec 8} {be : BitVec 4} {rest : List Arrival}
    (hd : delivery s.inputs = .port (.csr (.read off be)) rest) : step s = exec (decodeRead off) (s.taking rest) :=
  stepRunsDecodedInstruction s _ rest _ hd rfl

theorem step_fullWrite {s : State} {off : BitVec 8} {d : Lanes} {rest : List Arrival}
    (hd : delivery s.inputs = .port (.csr (.write off 0xF#4 d)) rest) :
    step s = exec (decodeWrite off d.toWord) (s.taking rest) :=
  stepRunsDecodedInstruction s _ rest _ hd (by simp [decode])

/-- Settles O5: the decoder sees the selected register and whether all enables are set; each decoded access is answered. -/
theorem csrAccessWidthAndAlignment : Obligations.CsrAccessWidthAndAlignment := by
  unfold Obligations.CsrAccessWidthAndAlignment
  refine ⟨fun off off' be be' h => ?_, fun off off' be d h => ?_, fun s off be d rest hd hbe => step_partialWrite hd hbe,
    fun s off be rest hd => ?_, fun s a rest hd => ?_⟩
  · exact congrArg Except.ok (decodeRead_congr (csrSelect_congr h))
  · simp only [decode, decodeWrite_congr (csrSelect_congr h)]
  · rw [step_csrRead hd]
    exact exec_decodeRead off (s.taking rest)
  · cases a with
    | read off be =>
      obtain ⟨s', _, e, _⟩ := exec_decodeRead off (s.taking rest)
      exact ⟨s', (step_csrRead hd).trans e⟩
    | write off be d =>
      by_cases hbe : be = 0xF#4
      · subst hbe
        rw [step_fullWrite hd]
        exact exec_decodeWrite off d.toWord (s.taking rest)
      · exact ⟨_, step_partialWrite hd hbe⟩

/-! ### The clock cycle, and Stop (R36, R42) -/

/-- Settles O7: `delivery` looks for the TICK first, then for the response. -/
theorem sameClockCycleOrder : Obligations.SameClockCycleOrder :=
  fun _ _ _ => ⟨rfl, fun _ => rfl, fun _ => rfl⟩

/-- However many ticks find `PLAYING` = 0, they do nothing (R61). -/
theorem Ticks.eq_of_notPlaying {n : Nat} {s s' : State} (h : Ticks n s s') (hp : s.playing = false) : s' = s := by
  induction h with
  | none => rfl
  | more he _ ih =>
    cases he.symm.trans (execTick_notPlaying hp)
    exact ih hp

/-- Settles O21: STOP leaves `PLAYING` = 0. -/
theorem ticksAfterStopDoNothing : Obligations.TicksAfterStopDoNothing := by
  unfold Obligations.TicksAfterStopDoNothing
  intro n s t t' hb hs ht
  have hr : exec .stop s = .next s.doStop.succeed := State.whenIdle_idle hb _
  cases hs.symm.trans hr
  exact ht.eq_of_notPlaying rfl

/-! ### The arguments (R44, R47, R108) -/

/-- `u'` is `u` but for what ARG0 and ARG1 hold, which is `a0` and `a1`. -/
def SameWithArgs (a0 a1 : Word) (u u' : State) : Prop := u' = { u with arg0 := a0, arg1 := a1 }

theorem execInit_sameWithArgs (mode : Byte) (s : State) (a0 a1 : Word) :
    GoAlike (SameWithArgs a0 a1) (execInit mode s) (execInit mode { s with arg0 := a0, arg1 := a1 }) := by
  have hbuf : ({ s with arg0 := a0, arg1 := a1 } : State).bufferOperand = s.bufferOperand := rfl
  refine .ite (goAlike_next rfl) (.ite (goAlike_next rfl) ?_)
  rw [hbuf]
  cases s.bufferOperand with
  | error code => exact goAlike_next rfl
  | ok buf =>
    refine goAlike_next ?_
    by_cases hi : s.initDone = true
    · simp only [if_pos hi]
      rfl
    · simp only [if_neg hi]
      rfl

theorem execPlay_sameWithArgs (s : State) (a0 a1 : Word) :
    GoAlike (SameWithArgs a0 a1) (execPlay s) (execPlay { s with arg0 := a0, arg1 := a1 }) := by
  refine .ite (goAlike_next rfl) (.ite (goAlike_next rfl) (.ite (goAlike_next rfl) (goAlike_next ?_)))
  dsimp only
  cases s.playing <;> rfl

theorem execRefill_sameWithArgs (s : State) (a0 a1 : Word) :
    GoAlike (SameWithArgs a0 a1) (execRefill s) (execRefill { s with arg0 := a0, arg1 := a1 }) := by
  refine .ite (goAlike_next rfl) (.ite (goAlike_next rfl) (.ite ?_ (.ite (goAlike_next rfl) (goAlike_next rfl))))
  have hres : ({ s with arg0 := a0, arg1 := a1 } : State).reserveProduce Config.block = s.reserveProduce Config.block := rfl
  rw [hres]
  cases s.reserveProduce Config.block with
  | none => exact goAlike_next rfl
  | some wr => exact goAlike_next rfl

theorem outputUnit_sameWithArgs (s : State) (a0 a1 : Word) :
    GoAlike (SameWithArgs a0 a1) s.outputUnit ({ s with arg0 := a0, arg1 := a1 } : State).outputUnit := by
  let t : State := { s with arg0 := a0, arg1 := a1 }
  show GoAlike _ _ t.outputUnit
  unfold State.outputUnit
  rcases s.tryPeekConsume_cases s.unitSize with ⟨hn, e⟩ | ⟨_, _, e⟩ | ⟨hn, hc, e⟩ <;> rw [e]
  · have e' : t.tryPeekConsume t.unitSize = .insufficient := if_pos hn
    rw [e']
    exact goAlike_next rfl
  · exact goAlike_fault
  · have e' : t.tryPeekConsume t.unitSize = .taken (s.peekBytes s.unitSize)
        { t with rd := BitVec.ofNat 16 (s.ringOff s.rd s.unitSize), occ := s.occ - BitVec.ofNat 16 s.unitSize } :=
      (if_neg (Nat.not_lt_of_le hn)).trans (if_neg hc)
    rw [e']
    exact goAlike_next rfl

theorem execTick_sameWithArgs (s : State) (a0 a1 : Word) :
    GoAlike (SameWithArgs a0 a1) (execTick s) (execTick { s with arg0 := a0, arg1 := a1 }) :=
  .ite (goAlike_next rfl) (.ite (goAlike_next rfl) (outputUnit_sameWithArgs s.flipAlt a0 a1))

/-- Settles O35: no guard and no register that these instructions write reads the arguments. -/
theorem argumentsAreReadOnlyByTheirCommands : Obligations.ArgumentsAreReadOnlyByTheirCommands := by
  unfold Obligations.ArgumentsAreReadOnlyByTheirCommands
  intro i s s' a0 a1 hi hw he
  suffices hg : GoAlike (SameWithArgs a0 a1) (exec i s) (exec i { s with arg0 := a0, arg1 := a1 }) by
    obtain ⟨_, e, rfl⟩ := hg s' he
    exact e
  clear he
  cases i with
  | selectFile | setBuffer | rdArg0 | rdArg1 => simp at hi
  | wrArg0 d | wrArg1 d => simp at hw
  | tick => exact execTick_sameWithArgs s a0 a1
  | init mode => exact execInit_sameWithArgs mode s a0 a1
  | play => exact execPlay_sameWithArgs s a0 a1
  | refill => exact execRefill_sameWithArgs s a0 a1
  | stgReadResp status data =>
    exact .ite (.ite (.ite goAlike_fault (goAlike_next rfl)) (goAlike_next rfl)) (goAlike_next rfl)
  | stgInitResp | stgLookupResp => exact .ite (.ite (goAlike_next rfl) (goAlike_next rfl)) (goAlike_next rfl)
  | deinit | setCs | pause | stop | illegal => exact .ite (goAlike_next rfl) (goAlike_next rfl)
  | rdCmd | rdStatus | rdUnderrun | rdLasterr | rdMode | rdCapacity | rdOccupied | rdRdPtr | rdWrPtr
  | rdStartBlock | rdTotalBytes | rdBytesConsumed | rdBlockIndex | rdCsId | rdCustomBase | rdCustomLen | rdUnmapped
  | wrIgnored => exact goAlike_next rfl

end Sys2Proof.Machine

/-! PROOF. Family 30_encoding: the command map (O3, O4), the decoder and the encoder (O1, O2), and the command words that start
nothing: any word while `BUSY` = 1 (O19), and an illegal one (O32). -/

namespace Sys2Proof.Machine

/-! ### The command word and its fields (R47, R48) -/

/-- A word is its three fields. -/
theorem word_eq_iff {v w : Word} : v = w ↔ cmdRsv v = cmdRsv w ∧ cmdImm8 v = cmdImm8 w ∧ cmdOp v = cmdOp w := by
  constructor
  · rintro rfl
    exact ⟨rfl, rfl, rfl⟩
  · rintro ⟨hrsv, himm8, hop⟩
    have fields (u : Word) : cmdRsv u ++ (cmdImm8 u ++ cmdOp u) = u :=
      (congrArg (cmdRsv u ++ ·) (BitVec.extractLsb'_append_extractLsb'_eq_extractLsb' rfl)).trans
        BitVec.extractLsb'_append_extractLsb'
    rw [← fields v, ← fields w, hrsv, himm8, hop]

/-- R48's full mask compares every field. -/
theorem and_fullMask_eq_iff {w : Word} {op : BitVec 8} :
    w &&& 0xFFFFFFFF#32 = cmdWord 0#8 op ↔ cmdRsv w = 0#16 ∧ cmdImm8 w = 0#8 ∧ cmdOp w = op := by
  have hmask : w &&& 0xFFFFFFFF#32 = w := BitVec.and_allOnes
  rw [hmask, word_eq_iff, cmdRsv_cmdWord, cmdImm8_cmdWord, cmdOp_cmdWord]

/-- R48's other mask leaves `IMM8` out. -/
theorem and_operandMask_eq_iff {w : Word} {op : BitVec 8} :
    w &&& 0xFFFF00FF#32 = cmdWord 0#8 op ↔ cmdRsv w = 0#16 ∧ cmdOp w = op := by
  have hrsv : cmdRsv (w &&& 0xFFFF00FF#32) = cmdRsv w := BitVec.extractLsb'_and.trans BitVec.and_allOnes
  have himm8 : cmdImm8 (w &&& 0xFFFF00FF#32) = 0#8 := BitVec.extractLsb'_and.trans BitVec.and_zero
  have hop : cmdOp (w &&& 0xFFFF00FF#32) = cmdOp w := BitVec.extractLsb'_and.trans BitVec.and_allOnes
  simp [word_eq_iff, hrsv, himm8, hop]

theorem opcode_range_iff {op : BitVec 8} : (1 ≤ op.toNat ∧ op.toNat ≤ 9) ↔ op = 1#8 ∨ op = 2#8 ∨ op = 3#8 ∨ op = 4#8 ∨
    op = 5#8 ∨ op = 6#8 ∨ op = 7#8 ∨ op = 8#8 ∨ op = 9#8 := by
  bv_omega

theorem legalCommandWord_iff {w : Word} : legalCommandWord w = true ↔ (1 ≤ (cmdOp w).toNat ∧ (cmdOp w).toNat ≤ 9) ∧
    cmdRsv w = 0#16 ∧ (cmdImm8 w = 0#8 ∨ cmdOp w = 0x01#8 ∨ cmdOp w = 0x04#8) := by
  simp [legalCommandWord, cmdOp, cmdRsv, cmdImm8, and_assoc, or_assoc]

/-! ### The command map (R48, R50) -/

/-- The command a CMD write decodes to is its word's. -/
theorem decode_commandWrite {w : Word} {i : Instr} (h : decodeCommand w = i) : decode (commandWrite w) = .ok i :=
  (decode_fullWrite 0x00 w).trans (congrArg Except.ok h)

/-- With INIT and SET_CS set apart, an `OP` is illegal when it is out of R48's range. -/
theorem decodePlainCommand_eq_illegal_iff {w v : Word} (hinit : cmdOp w ≠ 0x01#8) (hsetCs : cmdOp w ≠ 0x04#8) :
    decodePlainCommand w = .illegal v ↔ w = v ∧ ¬(1 ≤ (cmdOp w).toNat ∧ (cmdOp w).toNat ≤ 9) := by
  rw [opcode_range_iff, decodePlainCommand]
  split_ifs <;> simp [*]

/-- The decoder calls ILLEGAL what R48 does not call legal. -/
theorem decodeCommand_eq_illegal_iff {w v : Word} :
    decodeCommand w = .illegal v ↔ w = v ∧ legalCommandWord w = false := by
  rw [← Bool.not_eq_true, legalCommandWord_iff, decodeCommand]
  split_ifs with hrsv hinit hsetCs himm8
  · simp [hrsv, hinit]
  · simp [hrsv, hsetCs]
  · simp [decodePlainCommand_eq_illegal_iff hinit hsetCs, hrsv, himm8]
  · simp [himm8, hinit, hsetCs]
  · simp [hrsv]

theorem decodeCommand_of_illegal {w : Word} (h : legalCommandWord w = false) : decodeCommand w = .illegal w :=
  decodeCommand_eq_illegal_iff.mpr ⟨rfl, h⟩

/-- The decoder asks for `RSV` first, R48's map for one opcode after another: they give the same command. -/
theorem decodeCommand_eq_map (w : Word) : decodeCommand w =
    if w &&& 0xFFFF00FF#32 = cmdWord 0#8 0x01#8 then .init (cmdImm8 w)
    else if w &&& 0xFFFFFFFF#32 = cmdWord 0#8 0x02#8 then .deinit
    else if w &&& 0xFFFFFFFF#32 = cmdWord 0#8 0x03#8 then .setBuffer
    else if w &&& 0xFFFF00FF#32 = cmdWord 0#8 0x04#8 then .setCs (cmdImm8 w)
    else if w &&& 0xFFFFFFFF#32 = cmdWord 0#8 0x05#8 then .selectFile
    else if w &&& 0xFFFFFFFF#32 = cmdWord 0#8 0x06#8 then .play
    else if w &&& 0xFFFFFFFF#32 = cmdWord 0#8 0x07#8 then .pause
    else if w &&& 0xFFFFFFFF#32 = cmdWord 0#8 0x08#8 then .stop
    else if w &&& 0xFFFFFFFF#32 = cmdWord 0#8 0x09#8 then .refill
    else .illegal w := by
  simp only [and_fullMask_eq_iff, and_operandMask_eq_iff]
  by_cases hrsv : cmdRsv w = 0#16
  · by_cases hsetCs : cmdOp w = 0x04#8
    · simp [decodeCommand, hrsv, hsetCs]
    · by_cases himm8 : cmdImm8 w = 0#8
      · simp [decodeCommand, decodePlainCommand, hrsv, hsetCs, himm8]
      · simp [decodeCommand, hrsv, hsetCs, himm8]
  · simp [decodeCommand, hrsv]

/-- Settles O4: a pair of R48 compares the fields its mask covers, and ILLEGAL is the decoder's name for no legal word. -/
theorem commandMapByMatchAndMask : Obligations.CommandMapByMatchAndMask := by
  unfold Obligations.CommandMapByMatchAndMask
  intro w
  refine ⟨decode_commandWrite (decodeCommand_eq_map w), ?_⟩
  rw [decode_commandWrite rfl, Ne, Except.ok.injEq, decodeCommand_eq_illegal_iff, and_iff_right rfl, Bool.not_eq_false]
  exact legalCommandWord_iff

/-- Settles O3: each word's command, by evaluation. -/
theorem sampleCommandWordsDecode : Obligations.SampleCommandWordsDecode := by
  unfold Obligations.SampleCommandWordsDecode
  simp only [decode_commandWrite rfl]
  decide

/-! ### What the decoder gives (R48, R52) -/

theorem decodeCommand_wf (w : Word) : (decodeCommand w).wf = true := by
  have hc := decodeCommand_isCommand w
  cases hi : decodeCommand w with
  | illegal v =>
    obtain ⟨rfl, hill⟩ := decodeCommand_eq_illegal_iff.mp hi
    simp [Instr.wf, hill]
  | init | deinit | setBuffer | setCs | selectFile | play | pause | stop | refill => rfl
  | _ =>
    rw [hi] at hc
    cases hc

theorem decodeRead_wf (off : BitVec 8) : (decodeRead off).wf = true := by
  unfold decodeRead
  split
  case h_19 =>
    simp only [Instr.wf, decide_eq_true_eq, imp_false] at *
    omega
  all_goals rfl

theorem decodeWrite_wf (off : BitVec 8) (w : Word) : (decodeWrite off w).wf = true := by
  unfold decodeWrite
  split
  case h_1 => exact decodeCommand_wf w
  case h_4 =>
    simp only [Instr.wf, decide_eq_true_eq, imp_false] at *
    omega
  all_goals rfl

/-- Settles O2, by the port and the access: only CMD writes, reads and ignored writes give an instruction that could be
ill-formed. -/
theorem decodedInstructionsAreWellFormed : Obligations.DecodedInstructionsAreWellFormed := by
  unfold Obligations.DecodedInstructionsAreWellFormed
  intro p i hp
  cases p with
  | tick =>
    cases hp
    rfl
  | stg r =>
    cases r with
    | init | lookup | read =>
      cases hp
      rfl
  | csr a =>
    cases a with
    | read off be =>
      cases hp
      exact decodeRead_wf off
    | write off be d =>
      by_cases hbe : be = 0xF#4
      · rw [decode, if_pos hbe] at hp
        cases hp
        exact decodeWrite_wf off d.toWord
      · rw [decode_partialWrite off d hbe] at hp
        cases hp

/-! ### Decoding what was encoded (R46) -/

theorem decodeCommand_init (mode : Byte) : decodeCommand (cmdWord mode 0x01) = .init mode := by
  simp [decodeCommand]

theorem decodeCommand_setCs (id : Byte) : decodeCommand (cmdWord id 0x04) = .setCs id := by
  simp [decodeCommand]

theorem decodeWrite_csrOffset_ignored {sel : BitVec 6} (h : 0x03 ≤ sel.toNat) (d : Word) :
    decodeWrite (csrOffset sel) d = .wrIgnored sel d := by
  unfold decodeWrite
  rw [csrSelect_csrOffset]
  split
  case h_4 => rfl
  all_goals omega

/-- Settles O1, by the instruction: one without operands is decoded by evaluation, one with operands by its format's rule. -/
theorem decodeEncodeAgree : Obligations.DecodeEncodeAgree := by
  unfold Obligations.DecodeEncodeAgree
  intro i hwf
  cases i with
  | init mode => exact decode_commandWrite (decodeCommand_init mode)
  | setCs id => exact decode_commandWrite (decodeCommand_setCs id)
  | illegal w =>
    have hill : legalCommandWord w = false := by simpa [Instr.wf] using hwf
    exact decode_commandWrite (decodeCommand_of_illegal hill)
  | deinit | setBuffer | selectFile | play | pause | stop | refill => exact decode_commandWrite rfl
  | rdUnmapped sel => exact congrArg Except.ok (decodeRead_csrOffset_unmapped (of_decide_eq_true hwf))
  | wrArg0 d | wrArg1 d => exact decode_fullWrite _ d
  | wrIgnored sel d =>
    rw [encode, decode_fullWrite, decodeWrite_csrOffset_ignored (of_decide_eq_true hwf)]
  | rdCmd | rdArg0 | rdArg1 | rdStatus | rdUnderrun | rdLasterr | rdMode | rdCapacity | rdOccupied | rdRdPtr | rdWrPtr
  | rdStartBlock | rdTotalBytes | rdBytesConsumed | rdBlockIndex | rdCsId | rdCustomBase | rdCustomLen => rfl
  | tick | stgInitResp | stgLookupResp | stgReadResp => rfl

/-! ### Command words that start nothing (R50, R51) -/

/-- Settles O19: a word decodes to a command, and every command is guarded by `BUSY` = 0. -/
theorem busyIgnoresEveryCommandWord : Obligations.BusyIgnoresEveryCommandWord := by
  unfold Obligations.BusyIgnoresEveryCommandWord
  intro s w hb
  exact ⟨decodeCommand w, decode_commandWrite rfl, exec_command_busy (decodeCommand_isCommand w) hb⟩

/-- Settles O32: ILLEGAL is guarded as every command is, and past the guard it only records ERR_BAD_CMD. -/
theorem illegalCommandRule : Obligations.IllegalCommandRule := by
  unfold Obligations.IllegalCommandRule
  intro s w
  exact ⟨exec_command_busy rfl, fun hb => State.whenIdle_idle hb _,
    fun hill => decode_commandWrite (decodeCommand_of_illegal hill)⟩

end Sys2Proof.Machine

/-! PROOF. Family 40_ring_buffer: the contracts of the ring buffer's operations (O9). -/

namespace Sys2Proof.Machine

/-! ### tryPeekConsume in each of its cases (R56) -/

theorem State.tryPeekConsume_of_lt {s : State} {n : Nat} (hn : s.occ.toNat < n) :
    s.tryPeekConsume n = .insufficient :=
  if_pos hn

theorem State.tryPeekConsume_of_le {s : State} {n : Nat} (hn : n ≤ s.occ.toNat) (hc : s.cap ≠ 0#16) :
    s.tryPeekConsume n = .taken (s.peekBytes n)
      { s with rd := BitVec.ofNat 16 (s.ringOff s.rd n), occ := s.occ - BitVec.ofNat 16 n } := by
  rw [State.tryPeekConsume, if_neg (Nat.not_lt.mpr hn), if_neg hc]

/-! ### The contracts -/

/-- Settles O9: `tryPeekConsume` by its two cases, its offsets being `ringOff` written out; the other three operations are
their pseudocode (R57 to R59). -/
theorem ringOperationsFollowTheirContracts : Obligations.RingOperationsFollowTheirContracts := by
  unfold Obligations.RingOperationsFollowTheirContracts
  refine ⟨fun s n hn => State.tryPeekConsume_of_lt hn, fun s n hn hc => State.tryPeekConsume_of_le hn hc, ?reserve, ?commit,
    ?reset⟩
  case reserve => exact fun s n => rfl
  case commit => exact fun s m => rfl
  case reset => exact fun s => rfl

end Sys2Proof.Machine

/-! PROOF. Family 41_consumer: a tick's whole next state (O13), half rate over many ticks (O14), and a pause between two ticks
(O24). -/

namespace Sys2Proof.Machine

/-! ### A tick in each of its cases, with the phase named by ALT (R61, R62) -/

/-- The tick that half rate skips: it finds `ALT` = 1 and leaves 0 (R62). -/
theorem execTick_inactive {s : State} (hp : s.playing = true) (hh : s.halfRate = true) (ha : s.alt = true) :
    execTick s = .next { s with alt := false } := by
  have hi : s.flipAlt.inactivePhase = true := by simp [State.inactivePhase, hh, ha]
  have hf : s.flipAlt = { s with alt := false } := by simp [State.flipAlt, hh, ha]
  rw [execTick, if_neg (by simp [hp]), if_pos hi, hf]

/-- An active tick goes on to output, after setting `ALT` in half rate (R61 steps 2 and 3). -/
theorem execTick_active {s : State} (hp : s.playing = true) (ha : s.halfRate = true → s.alt = false) :
    execTick s = State.outputUnit { s with alt := if s.halfRate then true else s.alt } := by
  have hi : ¬s.flipAlt.inactivePhase = true := by simpa using s.inactivePhase_flipAlt_eq_false.mpr ha
  have hf : s.flipAlt = { s with alt := if s.halfRate then true else s.alt } := by
    cases hh : s.halfRate <;> simp [State.flipAlt, hh, ha]
  rw [execTick, if_neg (by simp [hp]), if_neg hi, hf]

/-- Too few bytes for a unit: an underrun, and nothing is sent (R61 step 3, R64). -/
theorem State.outputUnit_of_lt {s : State} (hn : s.occ.toNat < s.unitSize) :
    s.outputUnit = .next { s with underrun := true } := by
  rw [State.outputUnit, State.tryPeekConsume_of_lt hn]

/-- A whole unit: it is taken off the ring and sent (R61 step 4, R63). -/
theorem State.outputUnit_of_le {s : State} (hn : s.unitSize ≤ s.occ.toNat) (hc : s.cap ≠ 0#16) :
    s.outputUnit = .next { s with
      rd := BitVec.ofNat 16 (s.ringOff s.rd s.unitSize), occ := s.occ - BitVec.ofNat 16 s.unitSize
      outs := s.outs ++ muxOutput s.stereo s.bridge (s.peekBytes s.unitSize) } := by
  rw [State.outputUnit, State.tryPeekConsume_of_le hn hc]
  rfl

/-- The unit's size is 2 in stereo, else 1 (R61). -/
theorem State.unitSize_stereo {s : State} (hs : s.stereo = true) : s.unitSize = 2 := if_pos hs

theorem State.unitSize_mono {s : State} (hs : s.stereo = false) : s.unitSize = 1 := by
  rw [State.unitSize, hs]
  rfl

/-- A single byte goes to channel 1, and in bridge mode to channel 2 too (R63). -/
theorem muxOutput_mono (bridge : Bool) (b : Byte) : muxOutput false bridge [b] =
    if bridge then [.dutyWrite .ch1 b, .dutyWrite .ch2 b] else [.dutyWrite .ch1 b] := by
  cases bridge <;> rfl

/-- Settles O13: the phase decides whether the tick is active, and the occupancy what an active tick outputs. -/
theorem tickConsumesAndOutputs : Obligations.TickConsumesAndOutputs := by
  unfold Obligations.TickConsumesAndOutputs
  refine ⟨rfl, fun s => ⟨execTick_notPlaying, execTick_inactive, fun hp ha => ?_⟩⟩
  let t : State := { s with alt := if s.halfRate then true else s.alt }
  have hact : exec .tick s = t.outputUnit := execTick_active hp ha
  rw [hact]
  refine ⟨fun hn => State.outputUnit_of_lt hn, fun hc hst hn => ?mono, fun hc hst hn => ?stereo⟩
  case mono =>
    have hu : t.unitSize = 1 := State.unitSize_mono hst
    rw [State.outputUnit_of_le (hu.le.trans hn) hc, hu, show t.stereo = false from hst,
      ← muxOutput_mono s.bridge (s.memRead (s.rd.toNat % s.cap.toNat))]
    rfl
  case stereo =>
    have hu : t.unitSize = 2 := State.unitSize_stereo hst
    rw [State.outputUnit_of_le (hu.le.trans hn) hc, hu, show t.stereo = true from hst]
    rfl

/-! ### Half rate (R62) -/

/-- `ALT` after `n` flips. -/
def altAfter (n : Nat) (alt : Bool) : Bool := if n % 2 = 0 then alt else !alt

/-- How many of the next `n` phases are active: half of them, rounded up where the first finds `ALT` = 0 (R62). -/
def activePhases (n : Nat) (alt : Bool) : Nat := (n + if alt then 0 else 1) / 2

theorem altAfter_succ (n : Nat) (alt : Bool) : altAfter (n + 1) alt = altAfter n (!alt) := by
  rcases Nat.mod_two_eq_zero_or_one n with h | h <;> simp [altAfter, Nat.succ_mod_two_eq_zero_iff, h]

theorem activePhases_succ (n : Nat) (alt : Bool) :
    activePhases (n + 1) alt = activePhases n (!alt) + if alt then 0 else 1 := by
  cases alt with
  | true => rfl
  | false => exact Nat.add_div_right n Nat.two_pos

/-- One tick while Playing at half rate flips `ALT`, and takes at most a unit where it found `ALT` = 0 and none where it
found 1. -/
theorem execTick_halfRate {s s' : State} (hp : s.playing = true) (hh : s.halfRate = true) (he : execTick s = .next s') :
    s'.playing = true ∧ s'.halfRate = true ∧ s'.unitSize = s.unitSize ∧ s'.alt = !s.alt ∧
      s.occ.toNat ≤ s'.occ.toNat + s.unitSize * (if s.alt then 0 else 1) := by
  have hflip : s.flipAlt.alt = !s.alt := by simp [hh]
  rcases execTick_cases s with ⟨h, _⟩ | ⟨_, _, e⟩ | ⟨_, _, _, e⟩ | ⟨_, _, _, _, e⟩ | ⟨_, hi, hn, _, e⟩
  case inl => simp [hp] at h
  all_goals cases he.symm.trans e
  · exact ⟨hp, hh, rfl, hflip, Nat.le_add_right _ _⟩
  · exact ⟨hp, hh, rfl, hflip, Nat.le_add_right _ _⟩
  · have ha : s.alt = false := s.inactivePhase_flipAlt_eq_false.mp hi hh
    refine ⟨hp, hh, rfl, hflip, ?_⟩
    show s.occ.toNat ≤ (s.occ - BitVec.ofNat 16 s.unitSize).toNat + s.unitSize * (if s.alt then 0 else 1)
    rw [State.occ_consume hn, ha, if_neg Bool.false_ne_true, Nat.mul_one]
    exact (Nat.sub_add_cancel hn).ge

/-- R62 over `n` ticks: every one flips the phase, and only the active ones drain. -/
theorem Ticks.halfRate {n : Nat} {s s' : State} (h : Ticks n s s') (hp : s.playing = true) (hh : s.halfRate = true) :
    s'.alt = altAfter n s.alt ∧ s.occ.toNat ≤ s'.occ.toNat + s.unitSize * activePhases n s.alt := by
  induction h with
  | none => exact ⟨rfl, Nat.le_add_right _ _⟩
  | @more n s t s' he _ ih =>
    obtain ⟨hp', hh', hunit, halt, htick⟩ := execTick_halfRate hp hh he
    obtain ⟨hflips, hticks⟩ := ih hp' hh'
    rw [halt] at hflips hticks
    rw [hunit] at hticks
    rw [altAfter_succ, activePhases_succ, Nat.mul_add]
    exact ⟨hflips, by omega⟩

/-- Settles O14, by `Ticks.halfRate`, which is an induction on the ticks; a unit is `unitSize` bytes. -/
theorem halfRateDrainsAtMostHalfTheTicks : Obligations.HalfRateDrainsAtMostHalfTheTicks := by
  unfold Obligations.HalfRateDrainsAtMostHalfTheTicks
  exact fun n s s' hp hh ht => ht.halfRate hp hh

/-! ### Pause and resume (R74) -/

/-- PAUSE toggles `PLAYING` when the block is idle and not Stopped (R74). -/
theorem execPause_toggles {s : State} (hb : s.busy = false) (hs : s.stopped = false) :
    execPause s = .next { s with playing := !s.playing, result := true } := by
  rw [execPause, State.whenIdle_idle hb, hs]
  rfl

/-- Settles O24: the first PAUSE leaves `PLAYING` = 0, so that no tick changes anything before the second one sets it again. -/
theorem pauseResumeRestoresPlayback : Obligations.PauseResumeRestoresPlayback := by
  unfold Obligations.PauseResumeRestoresPlayback
  intro n s t t' hb hs hp hpause ht
  cases hpause.symm.trans (execPause_toggles hb hs)
  cases ht.eq_of_notPlaying (by simp [hp])
  have hresume := execPause_toggles (s := { s with playing := !s.playing, result := true }) hb hs
  rw [Bool.not_not] at hresume
  exact hresume

end Sys2Proof.Machine

/-! PROOF. Family 42_producer: REFILL in each of its outcomes (O17). -/

namespace Sys2Proof.Machine

/-! ### reserveProduce in each of its cases (R57) -/

theorem State.reserveProduce_of_lt {s : State} {n : Nat} (hn : (s.cap - s.occ).toNat < n) : s.reserveProduce n = none :=
  if_pos hn

theorem State.reserveProduce_of_le {s : State} {n : Nat} (hn : n ≤ (s.cap - s.occ).toNat) :
    s.reserveProduce n = some s.wr :=
  if_neg (Nat.not_lt.mpr hn)

/-! ### REFILL in each of its cases (R67) -/

section
variable {s : State} (hb : s.busy = false)
include hb

/-- With no file selected there is nothing to fetch. -/
theorem execRefill_noFile (ht : s.total = 0#32) : execRefill s = .next s.succeed := by
  rw [execRefill, State.whenIdle_idle hb, if_pos ht]

/-- With too little room for a block, REFILL leaves the ring to the consumer. -/
theorem execRefill_noRoom (ht : s.total ≠ 0#32) (hc : s.consumed < s.total) (hr : (s.cap - s.occ).toNat < Config.block) :
    execRefill s = .next s.succeed := by
  rw [execRefill, State.whenIdle_idle hb, if_neg ht, if_pos hc, State.reserveProduce_of_lt hr]

/-- With room for a block, REFILL asks storage for the next one. -/
theorem execRefill_requests (ht : s.total ≠ 0#32) (hc : s.consumed < s.total)
    (hr : Config.block ≤ (s.cap - s.occ).toNat) :
    execRefill s = .next ({ (s.forgetRegion s.wr Config.block).emit (.stgRead s.blkIdx s.wr) with
      blkIdx := s.blkIdx + 1 }.pend .read) := by
  rw [execRefill, State.whenIdle_idle hb, if_neg ht, if_pos hc, State.reserveProduce_of_le hr]

/-- With the file fetched and at most one byte left to play, playback stops. -/
theorem execRefill_stops (ht : s.total ≠ 0#32) (hc : s.total ≤ s.consumed) (ho : s.occ.toNat ≤ 1) :
    execRefill s = .next s.doStop.succeed := by
  rw [execRefill, State.whenIdle_idle hb, if_neg ht, if_neg (BitVec.not_lt.mpr hc), if_pos ho]

/-- With the file fetched and more than one byte left to play, REFILL waits for the consumer. -/
theorem execRefill_waits (ht : s.total ≠ 0#32) (hc : s.total ≤ s.consumed) (ho : 2 ≤ s.occ.toNat) :
    execRefill s = .next s.succeed := by
  rw [execRefill, State.whenIdle_idle hb, if_neg ht, if_neg (BitVec.not_lt.mpr hc), if_neg (Nat.not_le.mpr ho)]

end

/-- Settles O17: an idle REFILL has one rule for each outcome, and a request changes no byte of memory
outside the region it forgets. -/
theorem refillRule : Obligations.RefillRule := by
  unfold Obligations.RefillRule
  refine ⟨decode_commandWrite rfl, fun s => ⟨fun hb => State.whenIdle_busy hb _, fun hb =>
    ⟨fun ht => execRefill_noFile hb ht, fun ht hc hr => execRefill_noRoom hb ht hc hr, ?request,
      fun ht hc ho => execRefill_stops hb ht hc ho, fun ht hc ho => execRefill_waits hb ht hc ho⟩⟩⟩
  case request =>
    intro ht hc hr
    refine ⟨_, execRefill_requests hb ht hc hr, rfl, s.setBufMem_inactive _, fun a ha => ?_⟩
    have hout : s.inRegion s.wr Config.block a = false := State.inRegion_eq_false ha
    exact (s.get?_forgetRegion _ _ a).trans (if_neg (Bool.eq_false_iff.mp hout))

end Sys2Proof.Machine

/-! PROOF. Family 43_control: the commands' whole next states (O20, O22, O23, O25, O27, O29, O30, O31), the responses that
complete INIT and SELECT_FILE (O26, O28), and the playback state after every instruction (O33). -/

namespace Sys2Proof.Machine

/-! ### Stop, deinitialize, pause and the chip select (R72, R74, R79, R81) -/

theorem execStop_idle {s : State} (hb : s.busy = false) : execStop s = .next s.doStop.succeed :=
  State.whenIdle_idle hb _

/-- STOP answers a state that the next STOP answers again: `BUSY` is as before, and a second `DoStop` changes nothing (R72). -/
theorem execStop_idempotent {s s' : State} (h : execStop s = .next s') : execStop s' = .next s' := by
  cases hb : s.busy with
  | true =>
    cases h.symm.trans (State.whenIdle_busy hb _)
    exact h
  | false =>
    cases h.symm.trans (execStop_idle hb)
    exact execStop_idle hb

/-- Settles O20: past the guard STOP is `DoStop`, and a second one changes nothing. -/
theorem stopRule : Obligations.StopRule := by
  unfold Obligations.StopRule
  exact ⟨decode_commandWrite rfl, fun s hb => exec_command_busy rfl hb, fun s hb => execStop_idle hb,
    fun s s' h => execStop_idempotent h⟩

/-- PAUSE leaves a stopped block as it is (R74). -/
theorem execPause_stopped {s : State} (hb : s.busy = false) (hs : s.stopped = true) : execPause s = .next s.succeed := by
  have hp : (if s.stopped then s.playing else !s.playing) = s.playing := if_pos hs
  rw [execPause, State.whenIdle_idle hb, hp]

/-- Settles O23: `STOPPED` decides whether an idle PAUSE toggles. -/
theorem pauseRule : Obligations.PauseRule := by
  unfold Obligations.PauseRule
  exact ⟨decode_commandWrite rfl, fun s => ⟨exec_command_busy rfl, execPause_toggles, execPause_stopped⟩⟩

/-- Settles O29: past the guard DEINIT is `DoDeinit`, which never fails. -/
theorem deinitRule : Obligations.DeinitRule := by
  unfold Obligations.DeinitRule
  exact ⟨decode_commandWrite rfl, fun s => ⟨exec_command_busy rfl, fun hb => State.whenIdle_idle hb _⟩⟩

/-- Settles O31: past the guard SET_CS only stores its operand. -/
theorem setCsRule : Obligations.SetCsRule := by
  unfold Obligations.SetCsRule
  exact ⟨fun id => decode_commandWrite (decodeCommand_setCs id), fun s id =>
    ⟨exec_command_busy rfl, fun hb => State.whenIdle_idle hb _⟩⟩

/-! ### The commands that can fail, in each of their cases (R73, R75, R80) -/

section
variable {s : State} (hb : s.busy = false)
include hb

theorem execPlay_uninitialized (hi : s.initDone = false) : execPlay s = .next (s.fail 1 errNotInit) := by
  rw [execPlay, State.whenIdle_idle hb, if_pos (by simp [hi])]

theorem execPlay_noFile (hi : s.initDone = true) (ht : s.total = 0#32) : execPlay s = .next (s.fail 1 errNoFile) := by
  rw [execPlay, State.whenIdle_idle hb, if_neg (by simp [hi]), if_pos ht]

/-- With a file selected PLAY starts, and stops first where it finds `PLAYING` = 1. -/
theorem execPlay_starts (hi : s.initDone = true) (ht : s.total ≠ 0#32) : execPlay s =
    .next { (if s.playing then s.doStop else s) with playing := true, stopped := false, tickEn := true }.succeed := by
  rw [execPlay, State.whenIdle_idle hb, if_neg (by simp [hi]), if_neg ht]

theorem execSelectFile_uninitialized (hi : s.initDone = false) : execSelectFile s = .next (s.fail 1 errNotInit) := by
  rw [execSelectFile, State.whenIdle_idle hb, if_pos (by simp [hi])]

/-- An initialized block stops, deselects its file and asks storage for the new one. -/
theorem execSelectFile_asks (hi : s.initDone = true) : execSelectFile s =
    .next (({ s.doStop with total := 0 }.emit (.stgLookup s.arg0)).pend .lookup) := by
  rw [execSelectFile, State.whenIdle_idle hb, if_neg (by simp [hi])]

theorem execSetBuffer_absent (hn : s.lengthOperand = 0) : execSetBuffer s = .next (s.fail 1 errBufAbsent) := by
  rw [execSetBuffer, State.whenIdle_idle hb, if_pos hn]

theorem execSetBuffer_small (h0 : s.lengthOperand ≠ 0) (hn : s.lengthOperand < Config.minCap) :
    execSetBuffer s = .next (s.fail 1 errBufSmall) := by
  rw [execSetBuffer, State.whenIdle_idle hb, if_neg h0, if_pos hn]

theorem execSetBuffer_sets (hn : Config.minCap ≤ s.lengthOperand) : execSetBuffer s =
    .next { s with customBase := s.baseOperand, customLen := capacityOf s.lengthOperand }.succeed := by
  have h0 : s.lengthOperand ≠ 0 := (Nat.lt_of_lt_of_le (by decide) hn).ne'
  rw [execSetBuffer, State.whenIdle_idle hb, if_neg h0, if_neg (Nat.not_lt.mpr hn)]

end

/-- Settles O22: a start is `execPlay_starts`, with `PLAYING` deciding whether `DoStop` comes first. -/
theorem playRule : Obligations.PlayRule := by
  unfold Obligations.PlayRule
  refine ⟨decode_commandWrite rfl, fun s => ⟨exec_command_busy rfl, execPlay_uninitialized, execPlay_noFile, ?resume,
    ?restart⟩⟩
  case resume | restart =>
    intro hb hi ht hp
    have h := execPlay_starts hb hi ht
    rw [hp] at h
    exact h

/-- Settles O25: one rule for each outcome of an idle SELECT_FILE. -/
theorem selectFileRule : Obligations.SelectFileRule := by
  unfold Obligations.SelectFileRule
  exact ⟨decode_commandWrite rfl, fun s => ⟨exec_command_busy rfl, execSelectFile_uninitialized, execSelectFile_asks⟩⟩

/-- Settles O30: one rule for each range of the length operand. -/
theorem setBufferRule : Obligations.SetBufferRule := by
  unfold Obligations.SetBufferRule
  refine ⟨decode_commandWrite rfl, fun s => ⟨exec_command_busy rfl, fun hb h0 => ?absent, fun hb h0 hn => ?small,
    fun hb hn => execSetBuffer_sets hb hn⟩⟩
  case absent => exact execSetBuffer_absent hb (congrArg BitVec.toNat h0)
  case small => exact execSetBuffer_small hb (fun h => h0 (BitVec.eq_of_toNat_eq h)) hn

/-! ### INIT in each of its cases (R77) -/

/-- An INIT that has a mode and a buffer: it deinitializes an initialized block, latches both, and asks storage (R77). -/
def State.askInit (s : State) (mode : Byte) (cap : Count) (custom : Bool) (base : Word) : State :=
  ({ (if s.initDone then s.doDeinit else s) with
    pendMode := mode, pendCap := cap, pendCustom := custom, pendBase := base }.emit (.stgInit s.csId)).pend .init

section
variable {s : State}

theorem State.bufferOperand_custom (hc : s.customLen ≠ 0#16) : s.bufferOperand = .ok (s.customLen, true, s.customBase) :=
  if_pos hc

theorem State.bufferOperand_absent (hc : s.customLen = 0#16) (h0 : s.cfg.internalBufBytes = 0) :
    s.bufferOperand = .error errBufAbsent := by
  rw [State.bufferOperand, if_neg (not_not.mpr hc), if_pos h0]

theorem State.bufferOperand_small (hc : s.customLen = 0#16) (h0 : 0 < s.cfg.internalBufBytes)
    (hn : s.cfg.internalBufBytes < Config.minCap) : s.bufferOperand = .error errBufSmall := by
  rw [State.bufferOperand, if_neg (not_not.mpr hc), if_neg h0.ne', if_pos hn]

theorem State.bufferOperand_internal (hc : s.customLen = 0#16) (hn : Config.minCap ≤ s.cfg.internalBufBytes) :
    s.bufferOperand = .ok (capacityOf s.cfg.internalBufBytes, false, 0#32) := by
  have h0 : s.cfg.internalBufBytes ≠ 0 := (Nat.lt_of_lt_of_le (by decide) hn).ne'
  rw [State.bufferOperand, if_neg (not_not.mpr hc), if_neg h0, if_neg (Nat.not_lt.mpr hn)]

variable {mode : Byte} (hb : s.busy = false)
include hb

theorem execInit_badMode (hm : mode.extractLsb' 3 5 ≠ 0#5) : execInit mode s = .next (s.fail 1 errBadMode) := by
  have hbad : badMode mode = true := decide_eq_true hm
  rw [execInit, State.whenIdle_idle hb, if_pos hbad]

theorem execInit_noBuffer {code : Byte} (hm : mode.extractLsb' 3 5 = 0#5) (hbuf : s.bufferOperand = .error code) :
    execInit mode s = .next (s.fail 1 code) := by
  rw [execInit, State.whenIdle_idle hb, if_neg (by simp [badMode, hm]), hbuf]

theorem execInit_asks {cap : Count} {custom : Bool} {base : Word} (hm : mode.extractLsb' 3 5 = 0#5)
    (hbuf : s.bufferOperand = .ok (cap, custom, base)) :
    execInit mode s = .next (s.askInit mode cap custom base) := by
  have hcs : (if s.initDone then s.doDeinit else s).csId = s.csId := by split <;> rfl
  rw [execInit, State.whenIdle_idle hb, if_neg (by simp [badMode, hm]), hbuf, State.askInit, ← hcs]

end

/-- Settles O27: the mode is checked first, then the choice of a buffer is one of its four cases. -/
theorem initRule : Obligations.InitRule := by
  unfold Obligations.InitRule
  refine ⟨fun mode => decode_commandWrite (decodeCommand_init mode), fun s mode => ⟨exec_command_busy rfl, execInit_badMode,
    fun hb hm hc h0 => execInit_noBuffer hb hm (State.bufferOperand_absent hc h0),
    fun hb hm hc h0 hn => execInit_noBuffer hb hm (State.bufferOperand_small hc h0 hn),
    fun cap custom base hb hm hchoice => ?asks⟩⟩
  case asks =>
    have hbuf : s.bufferOperand = .ok (cap, custom, base) := by
      rcases hchoice with ⟨hc, rfl, rfl, rfl⟩ | ⟨hc, hn, rfl, rfl, rfl⟩
      · exact State.bufferOperand_custom hc
      · exact State.bufferOperand_internal hc hn
    have h := execInit_asks hb hm hbuf
    rw [State.askInit] at h
    constructor <;> intro hi <;> rw [hi] at h <;> exact h

/-! ### The responses that complete SELECT_FILE and INIT (R76, R78) -/

section
variable {s : State} {status : Byte}

theorem execStgLookupResp_fails {start length : Word} (hk : s.pendKind = .lookup) (hs : status ≠ 0#8) :
    execStgLookupResp status start length s = .next (s.unpend.fail 3 status) := by
  rw [execStgLookupResp, State.whenPending_match hk, if_pos hs]

theorem execStgLookupResp_selects {start length : Word} (hk : s.pendKind = .lookup) (hs : status = 0#8) :
    execStgLookupResp status start length s =
      .next { s.unpend with startBlock := start, total := length, consumed := 0, blkIdx := start }.succeed := by
  rw [execStgLookupResp, State.whenPending_match hk, if_neg (not_not.mpr hs)]

theorem execStgInitResp_fails (hk : s.pendKind = .init) (hs : status ≠ 0#8) :
    execStgInitResp status s = .next (s.unpend.fail 2 status) := by
  rw [execStgInitResp, State.whenPending_match hk, if_pos hs]

/-- The latched capacity, placement and mode have taken effect, before the buffer's bytes are lost and Stop is made (R78). -/
def State.latched (s : State) : State :=
  { s.unpend with
    cap := s.pendCap, bufCustom := s.pendCustom, bufBase := s.pendBase, bufForeign := false
    halfRate := modeHalfRate s.pendMode, stereo := modeStereo s.pendMode, bridge := modeBridge s.pendMode
    alt := false, startBlock := 0, total := 0 }

theorem execStgInitResp_completes (hk : s.pendKind = .init) (hs : status = 0#8) : execStgInitResp status s =
    .next { (s.latched.forgetRegion 0 s.pendCap.toNat).doStop with initDone := true }.succeed := by
  rw [execStgInitResp, State.whenPending_match hk, if_neg (not_not.mpr hs)]
  rfl

/-- From cursor 0 the ring's offsets count from 0 (R8). -/
theorem State.ringOff_zero {off : Nat} (ho : off < s.cap.toNat) : s.ringOff 0 off = off := by
  simp [State.ringOff, Nat.mod_eq_of_lt ho]

/-- Losing a region leaves each byte outside it, in both memories (R29, R30). -/
theorem State.get?_forgetRegion_outside {base : Count} {n a : Nat} (h : s.inRegion base n a = false) :
    Memory.get? (s.forgetRegion base n).ram a = Memory.get? s.ram a ∧
      Memory.get? (s.forgetRegion base n).ext a = Memory.get? s.ext a := by
  cases hc : s.bufCustom <;> simp [State.forgetRegion, State.bufMem, Memory.get?_forget, hc, h]

end

/-- Settles O26: one rule for each outcome of the awaited response. -/
theorem lookupResponseRule : Obligations.LookupResponseRule := by
  unfold Obligations.LookupResponseRule
  exact ⟨fun _ _ _ => rfl, fun s status start length => ⟨fun hk => State.whenPending_other hk _, execStgLookupResp_fails,
    execStgLookupResp_selects⟩⟩

/-- Settles O28: the buffer that a success loses is the `C` bytes from offset 0 of the latched placement. -/
theorem initResponseRule : Obligations.InitResponseRule := by
  unfold Obligations.InitResponseRule
  refine ⟨fun _ => rfl, fun s status => ⟨fun hk => State.whenPending_other hk _, execStgInitResp_fails, fun hk hs =>
    ⟨_, execStgInitResp_completes hk hs, rfl, s.latched.setBufMem_inactive _, ?unknown, ?left⟩⟩⟩
  case unknown =>
    intro off ho
    have hbyte := s.latched.ringByte_forgetRegion 0 ho
    rw [State.ringOff_zero (s := s.latched) ho] at hbyte
    exact hbyte
  case left =>
    intro a ha
    refine State.get?_forgetRegion_outside (s := s.latched) (State.inRegion_eq_false fun off ho => ?_)
    rw [State.ringOff_zero (s := s.latched) ho]
    exact ha off ho

/-! ### The playback state, by its flags (R19) -/

section
variable {s : State}

theorem State.playState_eq_uninitialized_iff : s.playState = .uninitialized ↔ s.initDone = false := by
  unfold State.playState
  split_ifs with hi <;> simpa using hi

theorem State.playState_of_stopped (hi : s.initDone = true) (hs : s.stopped = true) : s.playState = .stopped := by
  simp [State.playState, hi, hs]

theorem State.playState_of_playing (hi : s.initDone = true) (hs : s.stopped = false) (hp : s.playing = true) :
    s.playState = .playing := by
  simp [State.playState, hi, hs, hp]

/-- A file is selected on an initialized block only (R20 item 5). -/
theorem Inv.initDone_of_file (h : Inv s) (ht : s.total ≠ 0#32) : s.initDone = true :=
  Bool.eq_true_of_not_eq_false fun hi => ht (h.uninitialized hi).2.2

/-- PAUSE's row of R71: it leads from Playing to Paused and back, and leaves the other two. -/
def PlayState.toggled : PlayState → PlayState
  | .playing => .paused
  | .paused => .playing
  | .stopped => .stopped
  | .uninitialized => .uninitialized

theorem State.playState_toggled (hs : s.stopped = false) :
    State.playState { s with playing := !s.playing } = s.playState.toggled := by
  cases hi : s.initDone with
  | false => simp [State.playState, hi, PlayState.toggled]
  | true => cases hp : s.playing <;> simp [State.playState, hi, hs, hp, PlayState.toggled]

theorem State.toggled_playState_of_stopped (hs : s.stopped = true) : s.playState.toggled = s.playState := by
  cases hi : s.initDone <;> simp [State.playState, hi, hs, PlayState.toggled]

end

/-! ### The playback state after each instruction that can change it (R71) -/

theorem State.askInit_playState (s : State) (mode : Byte) (cap : Count) (custom : Bool) (base : Word) :
    (s.askInit mode cap custom base).playState = .uninitialized := by
  have hi : (if s.initDone then s.doDeinit else s).initDone = false := by
    split
    · rfl
    · exact Bool.eq_false_of_not_eq_true ‹_›
  exact State.playState_eq_uninitialized_iff.mpr hi

theorem execInit_playState (mode : Byte) (s : State) : AnswersWith (fun t => t.playState =
    if s.busy = false ∧ mode.extractLsb' 3 5 = 0#5 ∧ (s.customLen ≠ 0#16 ∨ 1024 ≤ s.cfg.internalBufBytes)
    then .uninitialized else s.playState) (execInit mode s) := by
  cases hb : s.busy with
  | true => exact ⟨s, State.whenIdle_busy hb _, by simp⟩
  | false =>
    by_cases hm : mode.extractLsb' 3 5 = 0#5
    · rcases s.bufferOperand_cases with ⟨hc, e⟩ | ⟨hc, h0, e⟩ | ⟨hc, _, hn, e⟩ | ⟨hc, hn, e⟩
      · exact ⟨_, execInit_asks hb hm e, (s.askInit_playState _ _ _ _).trans (if_pos ⟨rfl, hm, .inl hc⟩).symm⟩
      · exact ⟨_, execInit_noBuffer hb hm e, (if_neg (by simp [hc, h0])).symm⟩
      · exact ⟨_, execInit_noBuffer hb hm e, (if_neg (by simp [hc, hn])).symm⟩
      · exact ⟨_, execInit_asks hb hm e, (s.askInit_playState _ _ _ _).trans (if_pos ⟨rfl, hm, .inr hn⟩).symm⟩
    · exact ⟨_, execInit_badMode hb hm, (if_neg (by simp [hm])).symm⟩

theorem execDeinit_playState (s : State) : AnswersWith (fun t => t.playState =
    if s.busy then s.playState else .uninitialized) (execDeinit s) := by
  cases hb : s.busy with
  | true => exact ⟨s, State.whenIdle_busy hb _, rfl⟩
  | false => exact ⟨_, State.whenIdle_idle hb _, rfl⟩

theorem execPlay_playState (s : State) : AnswersWith (fun t => t.playState =
    if s.busy then s.playState
    else if s.playState = .uninitialized then .uninitialized
    else if s.total = 0#32 then s.playState else .playing) (execPlay s) := by
  simp only [State.playState_eq_uninitialized_iff]
  cases hb : s.busy with
  | true => exact ⟨s, State.whenIdle_busy hb _, rfl⟩
  | false =>
    cases hi : s.initDone with
    | false => exact ⟨_, execPlay_uninitialized hb hi, State.playState_eq_uninitialized_iff.mpr hi⟩
    | true =>
      by_cases ht : s.total = 0#32
      · exact ⟨_, execPlay_noFile hb hi ht, (if_pos ht).symm⟩
      · refine ⟨_, execPlay_starts hb hi ht, ?_⟩
        have hinit : (if s.playing then s.doStop else s).initDone = true := by split <;> exact hi
        refine Eq.trans ?_ (if_neg ht).symm
        exact State.playState_of_playing hinit rfl rfl

theorem execPause_playState (s : State) : AnswersWith (fun t => t.playState =
    if s.busy then s.playState else s.playState.toggled) (execPause s) := by
  cases hb : s.busy with
  | true => exact ⟨s, State.whenIdle_busy hb _, rfl⟩
  | false =>
    cases hs : s.stopped with
    | true => exact ⟨_, execPause_stopped hb hs, (State.toggled_playState_of_stopped hs).symm⟩
    | false => exact ⟨_, execPause_toggles hb hs, State.playState_toggled hs⟩

theorem execStop_playState (s : State) : AnswersWith (fun t => t.playState =
    if s.busy then s.playState
    else if s.playState = .uninitialized then .uninitialized else .stopped) (execStop s) := by
  simp only [State.playState_eq_uninitialized_iff]
  cases hb : s.busy with
  | true => exact ⟨s, State.whenIdle_busy hb _, rfl⟩
  | false =>
    refine ⟨_, execStop_idle hb, ?_⟩
    cases hi : s.initDone with
    | false => exact State.playState_eq_uninitialized_iff.mpr hi
    | true => exact State.playState_of_stopped hi rfl

theorem execSelectFile_playState (s : State) : AnswersWith (fun t => t.playState =
    if s.busy then s.playState
    else if s.playState = .uninitialized then .uninitialized else .stopped) (execSelectFile s) := by
  simp only [State.playState_eq_uninitialized_iff]
  cases hb : s.busy with
  | true => exact ⟨s, State.whenIdle_busy hb _, rfl⟩
  | false =>
    cases hi : s.initDone with
    | false => exact ⟨_, execSelectFile_uninitialized hb hi, State.playState_eq_uninitialized_iff.mpr hi⟩
    | true => exact ⟨_, execSelectFile_asks hb hi, State.playState_of_stopped hi rfl⟩

/-- The end of the stream is met with a file selected, so on an initialized block. -/
theorem execRefill_playState {s : State} (h : Inv s) : AnswersWith (fun t => t.playState =
    if s.busy = false ∧ s.total ≠ 0#32 ∧ s.total.toNat ≤ s.consumed.toNat ∧ s.occ.toNat ≤ 1
    then .stopped else s.playState) (execRefill s) := by
  rcases execRefill_cases s with ⟨hb, e⟩ | ⟨_, ht, e⟩ | ⟨_, _, hlt, _, e⟩ | ⟨_, _, hlt, _, e⟩ | ⟨hb, ht, hc, ho, e⟩ |
    ⟨_, _, _, ho, e⟩ <;> refine ⟨_, e, ?_⟩
  case inr.inr.inr.inr.inl =>
    rw [if_pos ⟨hb, ht, hc, ho⟩]
    exact State.playState_of_stopped (h.initDone_of_file ht) rfl
  · exact (if_neg (by simp [hb])).symm
  · exact (if_neg (by simp [ht])).symm
  · exact (if_neg (by omega)).symm
  · exact (if_neg (by omega)).symm
  · exact (if_neg (by omega)).symm

theorem execStgInitResp_playState (status : Byte) (s : State) : AnswersWith (fun t => t.playState =
    if s.pendKind = .init ∧ status = 0#8 then .stopped else s.playState) (execStgInitResp status s) := by
  by_cases hk : s.pendKind = .init
  · by_cases hs : status = 0#8
    · exact ⟨_, execStgInitResp_completes hk hs, (if_pos ⟨hk, hs⟩).symm⟩
    · exact ⟨_, execStgInitResp_fails hk hs, (if_neg (by simp [hs])).symm⟩
  · exact ⟨s, State.whenPending_other hk _, (if_neg (by simp [hk])).symm⟩

/-- A read is pending with part of the file unread, so on an initialized block. -/
theorem execStgReadResp_playState {status : Byte} {data : Vector Byte 512} {s s' : State} (h : Inv s)
    (he : execStgReadResp status data s = .next s') : s'.playState =
      if s.pendKind = .read ∧ status ≠ 0#8 then .stopped else s.playState := by
  rcases execStgReadResp_cases status data s with ⟨hk, e⟩ | ⟨_, _, _, e⟩ | ⟨_, hs, _, e⟩ | ⟨hk, hs, e⟩ <;>
    cases he.symm.trans e
  · exact (if_neg (by simp [hk])).symm
  · exact (if_neg (by simp [hs])).symm
  · have ht : s.total ≠ 0#32 := fun h0 => by simpa [h0] using (h.readPending hk).1
    rw [if_pos ⟨hk, hs⟩]
    exact State.playState_of_stopped (h.initDone_of_file ht) rfl

/-- Settles O33, by the instruction: each row of R71 is the lemma of its instruction, and the others change no flag. -/
theorem playbackStateGraph : Obligations.PlaybackStateGraph := by
  unfold Obligations.PlaybackStateGraph
  intro i s s' h he
  cases i with
  | init mode => exact (execInit_playState mode s).of_next he
  | deinit => exact (execDeinit_playState s).of_next he
  | play => exact (execPlay_playState s).of_next he
  | pause => exact (execPause_playState s).of_next he
  | stop => exact (execStop_playState s).of_next he
  | selectFile => exact (execSelectFile_playState s).of_next he
  | refill => exact (execRefill_playState h).of_next he
  | stgInitResp status => exact (execStgInitResp_playState status s).of_next he
  | stgReadResp status data => exact execStgReadResp_playState h he
  | tick => exact execTick_next (P := (·.playState = s.playState)) rfl rfl rfl (fun _ _ _ => rfl) s' he
  | setBuffer =>
    exact (execSetBuffer_answersWith (P := (·.playState = s.playState)) rfl (fun _ => rfl) fun _ => rfl).of_next he
  | stgLookupResp status start length =>
    exact (execStgLookupResp_answersWith (P := (·.playState = s.playState)) rfl (fun _ => rfl) fun _ => rfl).of_next he
  | setCs | illegal =>
    refine (AnswersWith.whenIdle (P := (·.playState = s.playState)) rfl (answersWith_next ?_)).of_next he
    rfl
  | rdCmd | rdArg0 | rdArg1 | rdStatus | rdUnderrun | rdLasterr | rdMode | rdCapacity | rdOccupied | rdRdPtr | rdWrPtr
  | rdStartBlock | rdTotalBytes | rdBytesConsumed | rdBlockIndex | rdCsId | rdCustomBase | rdCustomLen | rdUnmapped
  | wrArg0 | wrArg1 | wrIgnored =>
    cases he
    rfl

end Sys2Proof.Machine

/-! PROOF. Family 44_queries: what becomes of LASTERR (O36), the CSR reads (O38 to O42), and the writes of the registers other
than CMD (O43, O44). -/

namespace Sys2Proof.Machine

/-! ### What becomes of LASTERR (R84, R90, R91) -/

/-- The table of R91: instruction `i` may record the error of class `cls` and code `code`. -/
def ListedError (i : Instr) (cls : BitVec 3) (code : Byte) : Prop :=
  (cls = 1#3 ∧
    (code = errBufAbsent ∧ (i = .setBuffer ∨ ∃ m, i = .init m) ∨
     code = errBufSmall ∧ (i = .setBuffer ∨ ∃ m, i = .init m) ∨
     code = errNotInit ∧ (i = .play ∨ i = .selectFile) ∨
     code = errNoFile ∧ i = .play ∨
     code = errBadMode ∧ (∃ m, i = .init m) ∨
     code = errBadCmd ∧ ∃ w, i = .illegal w)) ∨
  (cls = 2#3 ∧ code ≠ 0#8 ∧ i = .stgInitResp code) ∨
  (cls = 3#3 ∧ code ≠ 0#8 ∧ ∃ start length, i = .stgLookupResp code start length) ∨
  (cls = 4#3 ∧ code ≠ 0#8 ∧ ∃ data, i = .stgReadResp code data)

/-- What can become of LASTERR when `i` leads from `s` to `t`: it stays, its read clears it, or a listed failure writes it. -/
def LasterrAfter (i : Instr) (s t : State) : Prop :=
  (t.errClass = s.errClass ∧ t.errCode = s.errCode) ∨
  (i = .rdLasterr ∧ t.errClass = 0#3 ∧ t.errCode = 0#8) ∨
  (t.result = false ∧ ListedError i t.errClass t.errCode)

section
variable {i : Instr} {s t : State}

theorem LasterrAfter.kept (hc : t.errClass = s.errClass) (he : t.errCode = s.errCode) : LasterrAfter i s t := .inl ⟨hc, he⟩

/-- `Fail` writes `RESULT` = 0 with the error (R90). -/
theorem LasterrAfter.failed {cls : BitVec 3} {code : Byte} (h : ListedError i cls code) :
    LasterrAfter i s (t.fail cls code) := .inr (.inr ⟨rfl, h⟩)

end

/-- The requesting INIT records no error, with or without its deinitialization (R77). -/
theorem State.askInit_lasterr (s : State) (mode : Byte) (cap : Count) (custom : Bool) (base : Word) :
    LasterrAfter (.init mode) s (s.askInit mode cap custom base) := by
  unfold State.askInit
  split <;> exact .kept rfl rfl

theorem execInit_lasterr (mode : Byte) (s : State) : AnswersWith (LasterrAfter (.init mode) s) (execInit mode s) := by
  cases hb : s.busy with
  | true => exact ⟨s, State.whenIdle_busy hb _, .kept rfl rfl⟩
  | false =>
    by_cases hm : mode.extractLsb' 3 5 = 0#5
    · rcases s.bufferOperand_cases with ⟨_, e⟩ | ⟨_, _, e⟩ | ⟨_, _, _, e⟩ | ⟨_, _, e⟩
      · exact ⟨_, execInit_asks hb hm e, s.askInit_lasterr ..⟩
      · exact ⟨_, execInit_noBuffer hb hm e, .failed (by simp [ListedError])⟩
      · exact ⟨_, execInit_noBuffer hb hm e, .failed (by simp [ListedError])⟩
      · exact ⟨_, execInit_asks hb hm e, s.askInit_lasterr ..⟩
    · exact ⟨_, execInit_badMode hb hm, .failed (by simp [ListedError])⟩

theorem execSetBuffer_lasterr (s : State) : AnswersWith (LasterrAfter .setBuffer s) (execSetBuffer s) := by
  refine .whenIdle (.kept rfl rfl) (.ite (answersWith_next (.failed ?absent)) (.ite (answersWith_next (.failed ?small))
    (answersWith_next (.kept rfl rfl)))) <;> simp [ListedError]

theorem execSelectFile_lasterr (s : State) : AnswersWith (LasterrAfter .selectFile s) (execSelectFile s) := by
  refine .whenIdle (.kept rfl rfl) (.ite (answersWith_next (.failed ?notInit)) (answersWith_next (.kept rfl rfl)))
  simp [ListedError]

theorem execPlay_lasterr (s : State) : AnswersWith (LasterrAfter .play s) (execPlay s) := by
  refine .whenIdle (.kept rfl rfl) (.ite (answersWith_next (.failed ?notInit)) (.ite (answersWith_next (.failed ?noFile))
    (answersWith_next ?starts)))
  case starts => cases s.playing <;> exact .kept rfl rfl
  all_goals simp [ListedError]

theorem execStgInitResp_lasterr (status : Byte) (s : State) :
    AnswersWith (LasterrAfter (.stgInitResp status) s) (execStgInitResp status s) := by
  refine .whenPending (.kept rfl rfl) (.dite (fun hs => answersWith_next (.failed ?_)) fun _ =>
    answersWith_next (.kept rfl rfl))
  simpa [ListedError] using hs

theorem execStgLookupResp_lasterr (status : Byte) (start length : Word) (s : State) :
    AnswersWith (LasterrAfter (.stgLookupResp status start length) s) (execStgLookupResp status start length s) := by
  refine .whenPending (.kept rfl rfl) (.dite (fun hs => answersWith_next (.failed ?_)) fun _ =>
    answersWith_next (.kept rfl rfl))
  simpa [ListedError] using hs

theorem execStgReadResp_lasterr {status : Byte} {data : Vector Byte 512} {s s' : State}
    (he : execStgReadResp status data s = .next s') : LasterrAfter (.stgReadResp status data) s s' := by
  rcases execStgReadResp_cases status data s with ⟨_, e⟩ | ⟨_, _, _, e⟩ | ⟨_, _, _, e⟩ | ⟨_, hs, e⟩ <;>
    cases he.symm.trans e
  · exact .kept rfl rfl
  · exact .kept rfl rfl
  · exact .failed (by simpa [ListedError] using hs)

/-- Settles O36: an instruction that changes LASTERR is one of its writers (O34), and each writer's own rule says what it
records. -/
theorem lasterrRecordsOnlyTheListedErrors : Obligations.LasterrRecordsOnlyTheListedErrors := by
  unfold Obligations.LasterrRecordsOnlyTheListedErrors
  intro i s s' he
  show LasterrAfter i s s'
  by_cases hkeep : (s'.errClass, s'.errCode) = (s.errClass, s.errCode)
  · exact .inl (Prod.mk.inj hkeep)
  obtain ⟨_, _, _, _, _, hwriter, _⟩ := elementsChangeOnlyByTheirWriters i s s' he
  rcases hwriter hkeep with rfl | ⟨mode, rfl⟩ | rfl | rfl | rfl | ⟨w, rfl⟩ | hresp
  · cases he
    exact .inr (.inl ⟨rfl, rfl, rfl⟩)
  · exact (execInit_lasterr mode s).of_next he
  · exact (execSetBuffer_lasterr s).of_next he
  · exact (execSelectFile_lasterr s).of_next he
  · exact (execPlay_lasterr s).of_next he
  · refine (AnswersWith.whenIdle (.kept rfl rfl) (answersWith_next (.failed ?_))).of_next he
    simp [ListedError]
  · cases i with
    | stgInitResp status => exact (execStgInitResp_lasterr status s).of_next he
    | stgLookupResp status start length => exact (execStgLookupResp_lasterr status start length s).of_next he
    | stgReadResp status data => exact execStgReadResp_lasterr he
    | _ => cases hresp

/-! ### The words that the reads return (R24, R27) -/

theorem State.underrunWord_eq (s : State) : s.underrunWord = if s.underrun then 1#32 else 0#32 := by
  unfold State.underrunWord
  cases s.underrun <;> rfl

theorem countWord_eq_setWidth (c : Count) : countWord c = c.setWidth 32 :=
  (BitVec.setWidth_eq_append (by decide)).symm

theorem byteWord_eq_setWidth (b : Byte) : byteWord b = b.setWidth 32 :=
  (BitVec.setWidth_eq_append (by decide)).symm

/-! ### The register that an offset selects (R22, R52) -/

theorem csrSelect_toNat (off : BitVec 8) : (csrSelect off).toNat = off.toNat / 4 := by
  revert off
  decide

/-- The rules of the encoder's offsets reach every offset: bits 1:0 select nothing. -/
theorem decodeRead_unmapped {off : BitVec 8} (h : 0x48 ≤ off.toNat) : decodeRead off = .rdUnmapped (csrSelect off) := by
  have hsel : 0x12 ≤ (csrSelect off).toNat := by
    rw [csrSelect_toNat]
    omega
  exact (decodeRead_congr (csrSelect_csrOffset _).symm).trans (decodeRead_csrOffset_unmapped hsel)

theorem decodeWrite_ignored {off : BitVec 8} (h : 0x0C ≤ off.toNat) (d : Word) :
    decodeWrite off d = .wrIgnored (csrSelect off) d := by
  have hsel : 0x03 ≤ (csrSelect off).toNat := by
    rw [csrSelect_toNat]
    omega
  exact (decodeWrite_congr (csrSelect_csrOffset _).symm d).trans (decodeWrite_csrOffset_ignored hsel d)

/-- A full write is decoded by its offset and its word alone. -/
theorem decode_registerWrite (off : BitVec 8) (d : Word) : decode (registerWrite off d) = .ok (decodeWrite off d) := by
  simp [decode, registerWrite]

/-! ### The reads and the writes -/

/-- Settles O38: the answer is `statusWord`, whose derived bits and PEND_KIND are R23's by their definitions. -/
theorem readStatusRule : Obligations.ReadStatusRule := by
  unfold Obligations.ReadStatusRule
  exact ⟨fun _ => rfl, fun _ => rfl⟩

/-- Settles O39: the answer is the flag as it was before it is cleared. -/
theorem readUnderrunRule : Obligations.ReadUnderrunRule := by
  unfold Obligations.ReadUnderrunRule
  refine ⟨fun _ => rfl, fun s => ?_⟩
  rw [← State.underrunWord_eq]
  rfl

/-- Settles O40: the answer is `lasterrWord` as it was before `clearLasterr`. -/
theorem readLasterrRule : Obligations.ReadLasterrRule := by
  unfold Obligations.ReadLasterrRule
  exact ⟨fun _ => rfl, fun _ => rfl⟩

/-- Settles O41, by the row of the register map: the counters' and the chip select's rows are zero-extended by `countWord` and
`byteWord`. -/
theorem readPlainRegisterRule : Obligations.ReadPlainRegisterRule := by
  unfold Obligations.ReadPlainRegisterRule
  intro be s off i v hrow
  simp only [← countWord_eq_setWidth, ← byteWord_eq_setWidth, List.mem_cons, Prod.mk.injEq, List.not_mem_nil,
    or_false] at hrow
  rcases hrow with ⟨rfl, rfl, rfl⟩ | ⟨rfl, rfl, rfl⟩ | ⟨rfl, rfl, rfl⟩ | ⟨rfl, rfl, rfl⟩ | ⟨rfl, rfl, rfl⟩ |
    ⟨rfl, rfl, rfl⟩ | ⟨rfl, rfl, rfl⟩ | ⟨rfl, rfl, rfl⟩ | ⟨rfl, rfl, rfl⟩ | ⟨rfl, rfl, rfl⟩ | ⟨rfl, rfl, rfl⟩ |
    ⟨rfl, rfl, rfl⟩ | ⟨rfl, rfl, rfl⟩ | ⟨rfl, rfl, rfl⟩ <;> exact ⟨rfl, rfl⟩

/-- Settles O42: from 0x48 on no register is selected. -/
theorem readCmdAndUnmappedRule : Obligations.ReadCmdAndUnmappedRule := by
  unfold Obligations.ReadCmdAndUnmappedRule
  exact fun _ _ => ⟨rfl, rfl, fun _ hoff => congrArg Except.ok (decodeRead_unmapped hoff), fun _ => rfl⟩

/-- Settles O43: the two offsets select ARG0 and ARG1, and no guard stands before the store. -/
theorem writeArgumentRule : Obligations.WriteArgumentRule := by
  unfold Obligations.WriteArgumentRule
  exact fun _ d => ⟨decode_registerWrite 0x04 d, rfl, decode_registerWrite 0x08 d, rfl⟩

/-- Settles O44: from 0x0C on no register that a write reaches is selected. -/
theorem ignoredWriteRule : Obligations.IgnoredWriteRule := by
  unfold Obligations.IgnoredWriteRule
  refine ⟨fun off d hoff => ?_, fun _ _ _ => rfl⟩
  rw [decode_registerWrite, decodeWrite_ignored hoff, csrSelect]

end Sys2Proof.Machine

/-! PROOF. Family 60_exceptions: no event stops a block of the invariant (O57), a response of another kind is ignored (O37), also
after a reset (O53), and another agent's read (O46). -/

namespace Sys2Proof.Machine

/-! ### Nothing stops a block of the invariant (R89, R94) -/

/-- Uninitialized, the block is not playing: a tick outputs nothing while `C` = 0 (R20 items 3 and 5). -/
theorem SpecInv.playing_eq_false_of_ringless {s : State} (h : SpecInv s) (hc : s.cap = 0#16) : s.playing = false := by
  obtain ⟨-, hp, -⟩ := h.uninitialized (h.capacityInit.mp hc)
  exact hp

/-- No block is reserved while `C` = 0 (R20 item 10). -/
theorem SpecInv.pendKind_ne_read_of_ringless {s : State} (h : SpecInv s) (hc : s.cap = 0#16) : s.pendKind ≠ .read := by
  intro hk
  have hroom : Config.block ≤ (0#16).toNat - s.occ.toNat := hc ▸ h.reservation hk
  exact absurd (hroom.trans (Nat.sub_le _ _)) (by decide)

/-- Neither access that stops a block without a ring can happen (log 8). -/
theorem SpecInv.exec_next {s : State} (h : SpecInv s) (i : Instr) : ∃ s', exec i s = .next s' := by
  obtain ⟨-, -, hstop⟩ := ringlessAccessStops
  rcases hstop i s with hnext | ⟨hc, -, ⟨-, hp, -⟩ | ⟨_, -, hk⟩⟩
  · exact hnext
  · cases hp.symm.trans (h.playing_eq_false_of_ringless hc)
  · exact absurd hk (h.pendKind_ne_read_of_ringless hc)

/-- Settles O57, by what arrives: only a decoded input runs an instruction, and that goes on by `SpecInv.exec_next`. -/
theorem invariantStatesNeverStop : Obligations.InvariantStatesNeverStop := by
  unfold Obligations.InvariantStatesNeverStop
  intro s h
  unfold Goes step
  cases delivery s.inputs with
  | port p rest =>
    cases hp : decode p with
    | ok i => simpa only [hp] using (h.taking rest).exec_next i
    | error e =>
      cases e
      exact ⟨s.taking rest, by simp only [hp]⟩
  | nothing | reset | foreignRead | foreignWrite | quiet => exact ⟨_, rfl⟩

/-! ### A response that nothing waits for (R96, R105) -/

/-- The kind of the request that a storage response answers. -/
def responseKind : StgResp → PendKind
  | .init _ => .init
  | .lookup _ _ _ => .lookup
  | .read _ _ => .read

/-- The guard of each response stands before all it does. -/
theorem step_unmatchedResponse {s : State} {r : StgResp} {rest : List Arrival}
    (hd : delivery s.inputs = .port (.stg r) rest) (hk : s.pendKind ≠ responseKind r) :
    step s = .next (s.taking rest) := by
  have hkind : (s.taking rest).pendKind ≠ responseKind r := hk
  cases r with
  | init | lookup | read =>
    exact (stepRunsDecodedInstruction s _ rest _ hd rfl).trans (State.whenPending_other hkind _)

/-- Settles O37, by the response. -/
theorem unmatchedResponsesAreIgnored : Obligations.UnmatchedResponsesAreIgnored := by
  unfold Obligations.UnmatchedResponsesAreIgnored
  intro s r rest hd hk
  cases r with
  | init | lookup | read => exact step_unmatchedResponse hd hk

/-- Settles O53: after the reset nothing is pending, so that a response of any kind is unmatched. -/
theorem resetAbandonsTheOutstandingRequest : Obligations.ResetAbandonsTheOutstandingRequest := by
  unfold Obligations.ResetAbandonsTheOutstandingRequest
  intro s t rest rest' r hd hs hr
  rw [step, hd] at hs
  cases hs
  refine ⟨rfl, rfl, step_unmatchedResponse hr ?_⟩
  cases r with
  | init | lookup | read => exact nofun

/-! ### Another agent's read (R97, R113) -/

/-- Settles O46: the read is an access, and changes no byte. -/
theorem foreignReadRule : Obligations.ForeignReadRule := by
  unfold Obligations.ForeignReadRule
  intro s addr rest hd
  exact ⟨(s.taking rest).foreignAccess addr, by rw [step, hd], rfl,
    State.foreignAccess_bufForeign_iff (s := s.taking rest)⟩

end Sys2Proof.Machine

/-! PROOF. Family 70_reset_and_hazards: what the registers read after a reset (O51). -/

namespace Sys2Proof.Machine

/-! ### The words of the registers after a reset (R23 to R26, R104) -/

/-- Of the twelve fields, STOPPED and RESULT alone are set. -/
theorem State.reset_statusWord : State.reset.statusWord = 0x00000022#32 := by decide

theorem State.reset_underrunWord : State.reset.underrunWord = 0#32 := by decide

theorem State.reset_lasterrWord : State.reset.lasterrWord = 0#32 := by decide

theorem State.reset_modeWord : State.reset.modeWord = 0#32 := by decide

theorem countWord_zero : countWord 0 = 0#32 := by decide

theorem byteWord_zero : byteWord 0 = 0#32 := by decide

/-! ### The reads -/

/-- A read is known by the word that it answers. -/
theorem exec_answer_congr {i : Instr} {s : State} {v w : Word} (hread : exec i s = .next (s.answer v)) (hword : v = w) :
    exec i s = .next (s.answer w) := hword ▸ hread

/-- The word of each register is 0; the two reads that clear what they return find it clear, so that they too only answer. -/
theorem exec_applyReset_answers_zero (s : State) :
    ∀ i ∈ [Instr.rdUnderrun, .rdLasterr, .rdMode, .rdCapacity, .rdOccupied, .rdRdPtr, .rdWrPtr, .rdStartBlock,
        .rdTotalBytes, .rdBytesConsumed, .rdBlockIndex, .rdCsId, .rdCustomBase, .rdCustomLen, .rdArg0, .rdArg1],
      exec i s.applyReset = .next (s.applyReset.answer 0#32) := by
  simp only [List.forall_mem_cons]
  exact ⟨exec_answer_congr rfl State.reset_underrunWord, exec_answer_congr rfl State.reset_lasterrWord,
    exec_answer_congr rfl State.reset_modeWord, exec_answer_congr rfl countWord_zero, exec_answer_congr rfl countWord_zero,
    exec_answer_congr rfl countWord_zero, exec_answer_congr rfl countWord_zero, rfl, rfl, rfl, rfl,
    exec_answer_congr rfl byteWord_zero, rfl, exec_answer_congr rfl countWord_zero, rfl, rfl, nofun⟩

/-- Settles O51: the reset leaves `State.applyReset` of the state that has taken its inputs. -/
theorem resetValues : Obligations.ResetValues := by
  unfold Obligations.ResetValues
  intro s rest hd
  have hstep : step s = .next (s.taking rest).applyReset := by rw [step, hd]
  have hstatus : exec .rdStatus (s.taking rest).applyReset = .next ((s.taking rest).applyReset.answer 0x00000022#32) :=
    exec_answer_congr rfl State.reset_statusWord
  exact ⟨_, hstep, hstatus, exec_applyReset_answers_zero _, rfl, rfl, rfl, rfl⟩

end Sys2Proof.Machine
